-- ==== Sys2Proof/Word.lean ====
section
/-! DEFINITION. The word types of the CORE (spec 00_scope.md R8 to R10, 10_state.md R31 to R37). -/

namespace Sys2Proof

/-- A memory cell, a V register, a timer (R31, R37, R38). -/
abbrev Byte := BitVec 8

/-- An opcode: one 16-bit instruction word (R100). -/
abbrev Word := BitVec 16

/-- A 12-bit address: `pc`, `I`, a stack entry, the field NNN (R33, R34, R35, R104). -/
abbrev Addr := BitVec 12

/-- A register index 0..15, the fields X and Y (R31, R104). -/
abbrev RegIdx := BitVec 4

/-- The field N, a sprite's row count 0..15 (R104). -/
abbrev Nibble := BitVec 4

/-- A virtual key 0..15 (R44, R330). -/
abbrev Key := BitVec 4

/-- The random generator's state (R43). -/
abbrev Seed := BitVec 64

end Sys2Proof
end

