-- ==== Sys2Proof/Syntax.lean ====
section
/-! DEFINITION. The instruction variants: one constructor per row of spec 30_encoding.md R105, in the table's
order, with the operand fields of R104. -/

namespace Sys2Proof

/-- The closed set of instruction variants (R101, R105, R108). -/
inductive Instr where
  /-- 00E0 `CLS` (R286). -/
  | cls
  /-- 00EE `RET` (R182). -/
  | ret
  /-- 1NNN `JP NNN` (R183). -/
  | jp (nnn : Addr)
  /-- 2NNN `CALL NNN` (R184). -/
  | call (nnn : Addr)
  /-- 3XNN `SE Vx, NN` (R185). -/
  | seImm (x : RegIdx) (nn : Byte)
  /-- 4XNN `SNE Vx, NN` (R186). -/
  | sneImm (x : RegIdx) (nn : Byte)
  /-- 5XY0 `SE Vx, Vy` (R187). -/
  | seReg (x y : RegIdx)
  /-- 6XNN `LD Vx, NN` (R211). -/
  | ldImm (x : RegIdx) (nn : Byte)
  /-- 7XNN `ADD Vx, NN` (R212). -/
  | addImm (x : RegIdx) (nn : Byte)
  /-- 8XY0 `LD Vx, Vy` (R213). -/
  | ldReg (x y : RegIdx)
  /-- 8XY1 `OR Vx, Vy` (R214). -/
  | orReg (x y : RegIdx)
  /-- 8XY2 `AND Vx, Vy` (R215). -/
  | andReg (x y : RegIdx)
  /-- 8XY3 `XOR Vx, Vy` (R216). -/
  | xorReg (x y : RegIdx)
  /-- 8XY4 `ADD Vx, Vy` (R217). -/
  | addReg (x y : RegIdx)
  /-- 8XY5 `SUB Vx, Vy` (R218). -/
  | subReg (x y : RegIdx)
  /-- 8XY6 `SHR Vx, Vy` (R221). -/
  | shr (x y : RegIdx)
  /-- 8XY7 `SUBN Vx, Vy` (R219). -/
  | subn (x y : RegIdx)
  /-- 8XYE `SHL Vx, Vy` (R222). -/
  | shl (x y : RegIdx)
  /-- 9XY0 `SNE Vx, Vy` (R188). -/
  | sneReg (x y : RegIdx)
  /-- ANNN `LD I, NNN` (R250). -/
  | ldI (nnn : Addr)
  /-- BNNN `JP V0, NNN` (R189). -/
  | jpV0 (nnn : Addr)
  /-- CXNN `RND Vx, NN` (R223). -/
  | rnd (x : RegIdx) (nn : Byte)
  /-- DXYN `DRW Vx, Vy, N` (R287). -/
  | drw (x y : RegIdx) (n : Nibble)
  /-- EX9E `SKP Vx` (R334). -/
  | skp (x : RegIdx)
  /-- EXA1 `SKNP Vx` (R335). -/
  | sknp (x : RegIdx)
  /-- FX07 `LD Vx, DT` (R311). -/
  | ldFromDt (x : RegIdx)
  /-- FX0A `LD Vx, K` (R336). -/
  | ldKey (x : RegIdx)
  /-- FX15 `LD DT, Vx` (R312). -/
  | ldDt (x : RegIdx)
  /-- FX18 `LD ST, Vx` (R313). -/
  | ldSt (x : RegIdx)
  /-- FX1E `ADD I, Vx` (R251). -/
  | addI (x : RegIdx)
  /-- FX29 `LD F, Vx` (R361). -/
  | ldF (x : RegIdx)
  /-- FX33 `LD B, Vx` (R252). -/
  | ldB (x : RegIdx)
  /-- FX55 `LD [I], Vx` (R254). -/
  | store (x : RegIdx)
  /-- FX65 `LD Vx, [I]` (R255). -/
  | load (x : RegIdx)
deriving DecidableEq, Repr

end Sys2Proof
end

