-- ==== Sys2Proof/WellFormed.lean ====
section
/-! DEFINITION. Well-formedness: the opcode table of spec 30_encoding.md R105 as rows of mask and match, the
words it calls legal, and the operand ranges of an instruction (R104). -/

namespace Sys2Proof

/-- A row of R105's table: a word belongs to it where `op &&& mask = pattern`. -/
structure OpcodeRow where
  mask : Word
  pattern : Word
deriving DecidableEq, Repr

/-- The word has the row's fixed bits (R105). -/
def OpcodeRow.hasWord (r : OpcodeRow) (op : Word) : Bool := op &&& r.mask == r.pattern

/-- The row of an instruction's variant, mask and match as R105's table gives them. -/
def Instr.row : Instr → OpcodeRow
  | .cls => ⟨0xFFFF, 0x00E0⟩
  | .ret => ⟨0xFFFF, 0x00EE⟩
  | .jp _ => ⟨0xF000, 0x1000⟩
  | .call _ => ⟨0xF000, 0x2000⟩
  | .seImm _ _ => ⟨0xF000, 0x3000⟩
  | .sneImm _ _ => ⟨0xF000, 0x4000⟩
  | .seReg _ _ => ⟨0xF00F, 0x5000⟩
  | .ldImm _ _ => ⟨0xF000, 0x6000⟩
  | .addImm _ _ => ⟨0xF000, 0x7000⟩
  | .ldReg _ _ => ⟨0xF00F, 0x8000⟩
  | .orReg _ _ => ⟨0xF00F, 0x8001⟩
  | .andReg _ _ => ⟨0xF00F, 0x8002⟩
  | .xorReg _ _ => ⟨0xF00F, 0x8003⟩
  | .addReg _ _ => ⟨0xF00F, 0x8004⟩
  | .subReg _ _ => ⟨0xF00F, 0x8005⟩
  | .shr _ _ => ⟨0xF00F, 0x8006⟩
  | .subn _ _ => ⟨0xF00F, 0x8007⟩
  | .shl _ _ => ⟨0xF00F, 0x800E⟩
  | .sneReg _ _ => ⟨0xF00F, 0x9000⟩
  | .ldI _ => ⟨0xF000, 0xA000⟩
  | .jpV0 _ => ⟨0xF000, 0xB000⟩
  | .rnd _ _ => ⟨0xF000, 0xC000⟩
  | .drw _ _ _ => ⟨0xF000, 0xD000⟩
  | .skp _ => ⟨0xF0FF, 0xE09E⟩
  | .sknp _ => ⟨0xF0FF, 0xE0A1⟩
  | .ldFromDt _ => ⟨0xF0FF, 0xF007⟩
  | .ldKey _ => ⟨0xF0FF, 0xF00A⟩
  | .ldDt _ => ⟨0xF0FF, 0xF015⟩
  | .ldSt _ => ⟨0xF0FF, 0xF018⟩
  | .addI _ => ⟨0xF0FF, 0xF01E⟩
  | .ldF _ => ⟨0xF0FF, 0xF029⟩
  | .ldB _ => ⟨0xF0FF, 0xF033⟩
  | .store _ => ⟨0xF0FF, 0xF055⟩
  | .load _ => ⟨0xF0FF, 0xF065⟩

/-- One instruction of every variant, in the table's order (R105): rows 1 to 19. -/
def variantsLow : List Instr :=
  [.cls, .ret, .jp 0, .call 0, .seImm 0 0, .sneImm 0 0, .seReg 0 0, .ldImm 0 0, .addImm 0 0] ++
  [.ldReg 0 0, .orReg 0 0, .andReg 0 0, .xorReg 0 0, .addReg 0 0, .subReg 0 0, .shr 0 0, .subn 0 0,
   .shl 0 0, .sneReg 0 0]

/-- One instruction of every variant, in the table's order (R105): rows 20 to 34. -/
def variantsHigh : List Instr :=
  [.ldI 0, .jpV0 0, .rnd 0 0, .drw 0 0 0, .skp 0, .sknp 0] ++
  [.ldFromDt 0, .ldKey 0, .ldDt 0, .ldSt 0, .addI 0, .ldF 0, .ldB 0, .store 0, .load 0]

/-- The 34 rows of R105's table. -/
def opcodeRows : List OpcodeRow := (variantsLow ++ variantsHigh).map Instr.row

/-- The words R105's table knows; every other word is illegal (R106). -/
def legalWord (op : Word) : Bool := opcodeRows.any (·.hasWord op)

/-- The operand fields of an instruction, each with its width in bits (R104). -/
def Instr.fields : Instr → List (Nat × Nat)
  | .cls | .ret => []
  | .jp nnn | .call nnn | .ldI nnn | .jpV0 nnn => [(nnn.toNat, 12)]
  | .seImm x nn | .sneImm x nn | .ldImm x nn | .addImm x nn | .rnd x nn => [(x.toNat, 4), (nn.toNat, 8)]
  | .seReg x y | .ldReg x y | .orReg x y | .andReg x y | .xorReg x y | .addReg x y | .subReg x y
  | .shr x y | .subn x y | .shl x y | .sneReg x y => [(x.toNat, 4), (y.toNat, 4)]
  | .drw x y n => [(x.toNat, 4), (y.toNat, 4), (n.toNat, 4)]
  | .skp x | .sknp x | .ldFromDt x | .ldKey x | .ldDt x | .ldSt x | .addI x | .ldF x | .ldB x
  | .store x | .load x => [(x.toNat, 4)]

/-- Every operand fits its field (R104). The operand types carry the widths, so every `Instr` is well-formed
(`Laws.wellFormed_all`); the check that can fail is `legalWord`, on words. -/
def Instr.wellFormed (i : Instr) : Bool := i.fields.all fun f => f.1 < 2 ^ f.2

end Sys2Proof
end

