-- ==== Sys2Proof/Decode.lean ====
section
/-! DEFINITION. The decoder (spec 30_encoding.md R101 to R106), its byte-level form (20_memory.md R75), the
encoder from the same table, and the host's numbering of a table word. -/

namespace Sys2Proof

/-- Why a decode fails, by name. -/
inductive DecodeError where
  /-- The word matches no row of R105 (R106). -/
  | unrecognized (op : Word)
  /-- Fewer than the two bytes of an instruction (R100). -/
  | truncated
deriving DecidableEq, Repr

/-- The leading nibble `op[15:12]` (R9, R102). -/
def fieldOp (op : Word) : Nibble := op.extractLsb' 12 4

/-- `X = op[11:8]` (R9, R102). -/
def fieldX (op : Word) : RegIdx := op.extractLsb' 8 4

/-- `Y = op[7:4]` (R9, R102). -/
def fieldY (op : Word) : RegIdx := op.extractLsb' 4 4

/-- `N = op[3:0]` (R9, R102). -/
def fieldN (op : Word) : Nibble := op.extractLsb' 0 4

/-- `NN = op[7:0]` (R9, R102). -/
def fieldNN (op : Word) : Byte := op.extractLsb' 0 8

/-- `NNN = op[11:0]` (R9, R102). -/
def fieldNNN (op : Word) : Addr := op.extractLsb' 0 12

/-- The words with leading nibble 0 (R105). -/
def decode0 (op : Word) : Except DecodeError Instr :=
  if op = 0x00E0 then .ok .cls
  else if op = 0x00EE then .ok .ret
  else .error (.unrecognized op)

/-- The words with leading nibble 8, by N (R105). -/
def decode8 (op : Word) : Except DecodeError Instr :=
  match (fieldN op).toNat with
  | 0x0 => .ok (.ldReg (fieldX op) (fieldY op))
  | 0x1 => .ok (.orReg (fieldX op) (fieldY op))
  | 0x2 => .ok (.andReg (fieldX op) (fieldY op))
  | 0x3 => .ok (.xorReg (fieldX op) (fieldY op))
  | 0x4 => .ok (.addReg (fieldX op) (fieldY op))
  | 0x5 => .ok (.subReg (fieldX op) (fieldY op))
  | 0x6 => .ok (.shr (fieldX op) (fieldY op))
  | 0x7 => .ok (.subn (fieldX op) (fieldY op))
  | 0xE => .ok (.shl (fieldX op) (fieldY op))
  | _ => .error (.unrecognized op)

/-- The words with leading nibble E, by NN (R105). -/
def decodeE (op : Word) : Except DecodeError Instr :=
  if fieldNN op = 0x9E then .ok (.skp (fieldX op))
  else if fieldNN op = 0xA1 then .ok (.sknp (fieldX op))
  else .error (.unrecognized op)

/-- The words with leading nibble F, by NN (R105). -/
def decodeF (op : Word) : Except DecodeError Instr :=
  if fieldNN op = 0x07 then .ok (.ldFromDt (fieldX op))
  else if fieldNN op = 0x0A then .ok (.ldKey (fieldX op))
  else if fieldNN op = 0x15 then .ok (.ldDt (fieldX op))
  else if fieldNN op = 0x18 then .ok (.ldSt (fieldX op))
  else if fieldNN op = 0x1E then .ok (.addI (fieldX op))
  else if fieldNN op = 0x29 then .ok (.ldF (fieldX op))
  else if fieldNN op = 0x33 then .ok (.ldB (fieldX op))
  else if fieldNN op = 0x55 then .ok (.store (fieldX op))
  else if fieldNN op = 0x65 then .ok (.load (fieldX op))
  else .error (.unrecognized op)

/-- `DECODE` (R105): total on all 65536 words, by the leading nibble and, where ambiguous, the trailing
nibble or byte (R101). -/
def decode (op : Word) : Except DecodeError Instr :=
  match (fieldOp op).toNat with
  | 0x0 => decode0 op
  | 0x1 => .ok (.jp (fieldNNN op))
  | 0x2 => .ok (.call (fieldNNN op))
  | 0x3 => .ok (.seImm (fieldX op) (fieldNN op))
  | 0x4 => .ok (.sneImm (fieldX op) (fieldNN op))
  | 0x5 => if fieldN op = 0 then .ok (.seReg (fieldX op) (fieldY op)) else .error (.unrecognized op)
  | 0x6 => .ok (.ldImm (fieldX op) (fieldNN op))
  | 0x7 => .ok (.addImm (fieldX op) (fieldNN op))
  | 0x8 => decode8 op
  | 0x9 => if fieldN op = 0 then .ok (.sneReg (fieldX op) (fieldY op)) else .error (.unrecognized op)
  | 0xA => .ok (.ldI (fieldNNN op))
  | 0xB => .ok (.jpV0 (fieldNNN op))
  | 0xC => .ok (.rnd (fieldX op) (fieldNN op))
  | 0xD => .ok (.drw (fieldX op) (fieldY op) (fieldN op))
  | 0xE => decodeE op
  | _ => decodeF op

/-- The word of two bytes in fetch order: the first byte is bits 15..8 (R75). -/
def wordOfBytes (hi lo : Byte) : Word := hi ++ lo

/-- A word's bytes as memory holds them, the high byte at the lower address (R75). -/
def bytesOfWord (op : Word) : List Byte := [op.extractLsb' 8 8, op.extractLsb' 0 8]

/-- One instruction from the front of a list of bytes, with the bytes after it (R75, R100, R105). -/
def decodeBytes : List Byte → Except DecodeError (Instr × List Byte)
  | hi :: lo :: rest =>
    match decode (wordOfBytes hi lo) with
    | .ok i => .ok (i, rest)
    | .error e => .error e
  | _ => .error .truncated

/-- A word of format REGREG or SPRITE: leading nibble, X, Y, trailing nibble (R103). -/
def encodeXYN (op : Nibble) (x y : RegIdx) (n : Nibble) : Word := op ++ x ++ y ++ n

/-- A word of format REGIMM or REGFN: leading nibble, X, trailing byte (R103). -/
def encodeXNN (op : Nibble) (x : RegIdx) (nn : Byte) : Word := op ++ x ++ nn

/-- A word of format ADDR: leading nibble, NNN (R103). -/
def encodeNNN (op : Nibble) (nnn : Addr) : Word := op ++ nnn

/-- The word of an instruction (R103, R105). -/
def encode : Instr → Word
  | .cls => 0x00E0
  | .ret => 0x00EE
  | .jp nnn => encodeNNN 0x1 nnn
  | .call nnn => encodeNNN 0x2 nnn
  | .seImm x nn => encodeXNN 0x3 x nn
  | .sneImm x nn => encodeXNN 0x4 x nn
  | .seReg x y => encodeXYN 0x5 x y 0x0
  | .ldImm x nn => encodeXNN 0x6 x nn
  | .addImm x nn => encodeXNN 0x7 x nn
  | .ldReg x y => encodeXYN 0x8 x y 0x0
  | .orReg x y => encodeXYN 0x8 x y 0x1
  | .andReg x y => encodeXYN 0x8 x y 0x2
  | .xorReg x y => encodeXYN 0x8 x y 0x3
  | .addReg x y => encodeXYN 0x8 x y 0x4
  | .subReg x y => encodeXYN 0x8 x y 0x5
  | .shr x y => encodeXYN 0x8 x y 0x6
  | .subn x y => encodeXYN 0x8 x y 0x7
  | .shl x y => encodeXYN 0x8 x y 0xE
  | .sneReg x y => encodeXYN 0x9 x y 0x0
  | .ldI nnn => encodeNNN 0xA nnn
  | .jpV0 nnn => encodeNNN 0xB nnn
  | .rnd x nn => encodeXNN 0xC x nn
  | .drw x y n => encodeXYN 0xD x y n
  | .skp x => encodeXNN 0xE x 0x9E
  | .sknp x => encodeXNN 0xE x 0xA1
  | .ldFromDt x => encodeXNN 0xF x 0x07
  | .ldKey x => encodeXNN 0xF x 0x0A
  | .ldDt x => encodeXNN 0xF x 0x15
  | .ldSt x => encodeXNN 0xF x 0x18
  | .addI x => encodeXNN 0xF x 0x1E
  | .ldF x => encodeXNN 0xF x 0x29
  | .ldB x => encodeXNN 0xF x 0x33
  | .store x => encodeXNN 0xF x 0x55
  | .load x => encodeXNN 0xF x 0x65

/-- The instruction word of a table word: its low `nbits` bits, every bit above them 0. -/
def tableWord (nbits w : Nat) : Word := BitVec.ofNat 16 (w % 2 ^ nbits)

/-- The instruction the decoder reads from a table word laid out in memory order (R75). -/
def decodeTableWord (nbits w : Nat) : Option Instr :=
  match decodeBytes (bytesOfWord (tableWord nbits w)) with
  | .ok (i, _) => some i
  | .error _ => none

end Sys2Proof
end

