-- ==== Sys2Proof/Config.lean ====
section
/-! DEFINITION. The parameters of spec 00_scope.md R7: the sizes this hardware takes, the parameters of an
instance, the standard font, and the OPEN
parameters as opaque constants, of which nothing in Lean can know a value (log 2, log 3, log 4). -/

namespace Sys2Proof.Config

/-- `MEM_SIZE` (R7, R38). -/
abbrev memSize : Nat := 4096

/-- The highest address, 0xFFF (R70). -/
abbrev maxAddr : Nat := 0xFFF

/-- `STACK_DEPTH` (R7, R35). -/
abbrev stackDepth : Nat := 16

/-- `PROGRAM_ORIGIN` (R7, R401). -/
abbrev programOrigin : Nat := 0x200

/-- The font's cells, 0..79 (R7, R72). -/
abbrev fontBytes : Nat := 80

/-- `FONT`: the 80 bytes of a built-in font (R7, R360). -/
abbrev Font := Vector Byte fontBytes

/-- `DRAW_EDGE`: the display's policy at its edges (R285). -/
inductive DrawEdge where
  | wrap
  | clip
deriving DecidableEq, Repr

/-- `KEY_WAIT_VALUE`: what the resolution of a key-wait writes (R340). -/
inductive KeyWaitValue where
  | keyIndex
  | placeholder
deriving DecidableEq, Repr

/-- The construction parameters that the running machine reads. They are fixed when the instance is
constructed and no rule writes them (R7, N3). -/
structure Params where
  /-- `DISPLAY_W` (R7, R283). The spec has it at least 1 (`Safety.Inv` says so). -/
  displayW : Nat
  /-- `DISPLAY_H` (R7, R283). The spec has it at least 1 (`Safety.Inv` says so). -/
  displayH : Nat
  /-- `FONT` (R7, R360). -/
  font : Font
  /-- `STEPS_PER_TICK` (R144). The spec has it at least 1 (`Safety.Inv` says so). -/
  stepsPerTick : Nat
  /-- `DRAW_EDGE` (R285). -/
  drawEdge : DrawEdge
  /-- `KEY_WAIT_VALUE` (R340). -/
  keyWaitValue : KeyWaitValue
  /-- `KEY_WAIT_PLACEHOLDER`, read only in the placeholder setting (R340). -/
  keyWaitPlaceholder : Byte
  /-- `TIMER_DEC_AFTER_MIDCYCLE_HALT` (R144, D6). -/
  timerDecAfterMidcycleHalt : Bool
deriving DecidableEq, Repr

/-- OPEN (R7, D33): one less than `STEPS_PER_TICK`, so that the parameter is at least 1 (log 2). -/
opaque stepsPerTickPred : Nat

/-- OPEN (R7, R15, D16): `RNG_STEP`, seed to (byte, next seed) (log 2). -/
opaque rngStep : Seed → Byte × Seed

/-- OPEN (R7, D16): `RNG_SEED0` (log 2). -/
opaque rngSeed0 : Seed

/-- OPEN (R7, D17): `SHIFT_QUIRK` (log 2). -/
opaque shiftQuirk : Bool

/-- OPEN (R7, D17): `LOAD_STORE_QUIRK` (log 2). -/
opaque loadStoreQuirk : Bool

/-- OPEN (R7, D5): `KEY_WAIT_PLACEHOLDER` (log 2). -/
opaque keyWaitPlaceholder : Byte

/-- Glyphs 0 to 3 of `FONT` (R360). -/
def fontGlyphs0to3 : Vector Byte 20 :=
  #v[0xF0, 0x90, 0x90, 0x90, 0xF0, 0x20, 0x60, 0x20, 0x20, 0x70,
  0xF0, 0x10, 0xF0, 0x80, 0xF0, 0xF0, 0x10, 0xF0, 0x10, 0xF0]

/-- Glyphs 4 to 7 of `FONT` (R360). -/
def fontGlyphs4to7 : Vector Byte 20 :=
  #v[0x90, 0x90, 0xF0, 0x10, 0x10, 0xF0, 0x80, 0xF0, 0x10, 0xF0,
  0xF0, 0x80, 0xF0, 0x90, 0xF0, 0xF0, 0x10, 0x20, 0x40, 0x40]

/-- Glyphs 8 to B of `FONT` (R360). -/
def fontGlyphs8toB : Vector Byte 20 :=
  #v[0xF0, 0x90, 0xF0, 0x90, 0xF0, 0xF0, 0x90, 0xF0, 0x10, 0xF0,
  0xF0, 0x90, 0xF0, 0x90, 0x90, 0xE0, 0x90, 0xE0, 0x90, 0xE0]

/-- Glyphs C to F of `FONT` (R360). -/
def fontGlyphsCtoF : Vector Byte 20 :=
  #v[0xF0, 0x80, 0x80, 0x80, 0xF0, 0xE0, 0x90, 0x90, 0x90, 0xE0,
  0xF0, 0x80, 0xF0, 0x80, 0xF0, 0xF0, 0x80, 0xF0, 0x80, 0x80]

/-- The 80 bytes of the standard font, the spec's default `FONT` (R7, R360, D15; log 3). -/
def standardFont : Font := fontGlyphs0to3 ++ fontGlyphs4to7 ++ fontGlyphs8toB ++ fontGlyphsCtoF

/-- The parameters of the instance that `State.reset` constructs: the spec's defaults, and the OPEN ones
opaque (R7; log 2, log 3). -/
def params : Params where
  displayW := 64
  displayH := 32
  font := standardFont
  stepsPerTick := stepsPerTickPred + 1
  drawEdge := .wrap
  keyWaitValue := .keyIndex
  keyWaitPlaceholder := keyWaitPlaceholder
  timerDecAfterMidcycleHalt := true

end Sys2Proof.Config
end

