-- ==== Sys2Proof/Machine/State.lean ====
section
/-! DEFINITION. The machine's state as plain data (spec 10_state.md), the fatal errors it records
(60_exceptions.md R370), where the scheduler stands (40_execution_engine.md R144, R147), the host's calls
(60_exceptions.md R378), and the state after construction (70_reset_and_hazards.md R400). -/

namespace Sys2Proof.Machine

/-- Memory: the cells that differ from the construction contents, addresses strictly rising
(`Memory.wf` in Ops.lean). What an unlisted address reads as is `initialByte` (R70, R400; log 11). -/
abbrev Memory := List Host.Cell

/-- The display's pixels, column by column: `fb[x][y]` is column `x`, row `y` (R47). Its size is the parameters'
(`displayWf` in Ops.lean; log 20). -/
abbrev FrameBuffer := List (List Bool)

/-- The fatal error kinds with the information each records (R370). -/
inductive FatalError where
  /-- Kind 1: the word matches no row (raised by the step's decode, R106). -/
  | decodeError (op : Word)
  /-- Kind 2: a CALL with 16 entries in use; the CALL's pc (R184). -/
  | stackOverflow (pc : Addr)
  /-- Kind 3: a RET with an empty stack; the RET's pc (R182). -/
  | stackUnderflow (pc : Addr)
  /-- Kind 4: a fetch at an odd pc (R76). -/
  | misalignedFetch (pc : Addr)
  /-- Kind 5: a target past 0xFFF, exact (R180, R336). -/
  | pcOutOfRange (t : Nat)
  /-- Kind 6: the highest address the instruction would touch, exact (R74). -/
  | memoryOutOfRange (a : Nat)
  /-- Kind 7: a key operand past 15 (R334). -/
  | keyIndexOutOfRange (vx : Byte)
  /-- Kind 8: a program longer than 3584 bytes; returned by load_program, never recorded (R383, R403). -/
  | loadCapacityError (length : Nat)
deriving DecidableEq, Repr

/-- The numeric codes of R370's table. -/
def FatalError.code : FatalError → Nat
  | .decodeError _ => 1
  | .stackOverflow _ => 2
  | .stackUnderflow _ => 3
  | .misalignedFetch _ => 4
  | .pcOutOfRange _ => 5
  | .memoryOutOfRange _ => 6
  | .keyIndexOutOfRange _ => 7
  | .loadCapacityError _ => 8

/-- Where the scheduler loop stands (R144, R147; log 5). -/
inductive Phase where
  /-- Constructed; `run` has not been called (R404). -/
  | constructed
  /-- In the loop, between ticks: the check of the stop flag is next (R147). -/
  | checkStop
  /-- In the loop, the stop flag was found clear, suspended in `AwaitNextFrame` (R147, R284). -/
  | awaitFrame
  /-- Inside a cycle with `left` steps still to do; with 0 left, before its timer decrement (R144). -/
  | inCycle (left : Nat)
  /-- The loop has exited (R147). -/
  | exited
deriving DecidableEq, Repr

/-- The host's calls on an instance (R378). A key code is a virtual key, or `none` where unmapped (R330). -/
inductive HostCall where
  | loadProgram (bytes : List Byte)
  | run
  | stop
  | keyDown (code : Option Key)
  | keyUp (code : Option Key)
  | isDone
  | isPaused
deriving DecidableEq, Repr

/-- What a host call answers to the host (R150, R378, R383). -/
inductive HostReply where
  | done
  | failed (e : FatalError)
  | answer (b : Bool)
deriving DecidableEq, Repr

/-- One turn of the interleaving of host and core (R148; log 6). -/
inductive HostMove where
  /-- The host lets the core make its next move (and has called `run`, or grants the frame, if that is what
  the core waits for). -/
  | letCore
  /-- A turn passes with no frame granted: nothing changes (R151). -/
  | withholdFrame
  /-- The host makes a call at this boundary (R148). -/
  | call (c : HostCall)
deriving DecidableEq, Repr

/-- Why a step stops with a Lean fault. No instruction raises one: a fatal error of the spec is taken as a next
state (`takeFatal`, R371; log 12). -/
inductive Fault where
  /-- Raised by `resolve` (a `key_down` during a key-wait) in a state that breaks R53(6) or R336: no
  target is recorded, or pc + 2 passes 0xFFF. Safe: no run reaches such a state (log 8). -/
  | keyWaitCorrupt
  /-- Raised by `hostCall` for a `load_program` after `run`, which the spec has the host never do (N2, D29).
  Safe: the machine stops where the spec gives no effect (log 7). -/
  | loadAfterRun
  /-- Raised by `hostCall` for a `run` while the loop runs, which the spec has the host never do (N6, R378).
  Safe: the machine stops where the spec gives no effect (log 7). -/
  | secondRun
deriving DecidableEq, Repr

/-- Why a step gives an instruction no meaning. Every instruction has one: nothing answers a refusal. -/
inductive Refusal where
  /-- Answered by a refused arm of `exec`, of which there is none. Safe. -/
  | notModelled (mnemonic : String)
deriving DecidableEq, Repr

end Sys2Proof.Machine

namespace Sys2Proof.Machine

/-- The machine state (R30), with the model's own fields last. -/
structure State where
  /-- V0..VF; `V[15]` is VF (R31, R32). -/
  V : Vector Byte 16
  /-- The program counter (R33). -/
  pc : Addr
  /-- The index register (R34). -/
  I : Addr
  /-- The call stack (R35). -/
  stack : Vector Addr Config.stackDepth
  /-- The number of occupied stack entries, 0..16 (R36; log 13). -/
  sp : Fin 17
  /-- The delay timer (R37). -/
  DT : Byte
  /-- The sound timer (R37). -/
  ST : Byte
  /-- The memory (R38). -/
  mem : Memory
  /-- No fetch, decode or execute while true (R39). -/
  halted : Bool
  /-- A key-wait is pending (R40). -/
  awaitingKey : Bool
  /-- The register the pending key-wait will write (R40). -/
  awaitingKeyTarget : Option RegIdx
  /-- The repaint signal (R41). -/
  repaintPending : Bool
  /-- `shift_quirk` (R42). -/
  shiftQuirk : Bool
  /-- `load_store_quirk` (R42). -/
  loadStoreQuirk : Bool
  /-- `rng_seed` (R43). -/
  rngSeed : Seed
  /-- `key[k]`: virtual key k is down (R44). -/
  key : Vector Bool 16
  /-- The terminal stopped state (R45). -/
  stopped : Bool
  /-- The fatal error that stopped the instance (R46). -/
  fault : Option FatalError
  /-- The display's pixels (R47). -/
  fb : FrameBuffer
  /-- The model's own: the visible surface, `fb` as the last `Repaint()` flushed it (R282; log 9). -/
  surface : FrameBuffer
  /-- The model's own: the construction parameters of R7 that the machine reads (log 4). -/
  params : Config.Params
  /-- Where the scheduler loop stands (R144, R147; log 5). -/
  phase : Phase
  /-- The model's own: the host's moves still to come (R148; log 6). -/
  plan : List HostMove
  /-- The model's own: whether the host, once `plan` is empty, runs the instance and grants every frame, or never
  again does either (R151, R284, R378; log 6). -/
  hostGrants : Bool
  /-- A `key_down` has ended a key-wait of the stopped instance: no step runs any more (R339, R378, D36; log 19). -/
  stepsEnded : Bool
deriving DecidableEq, Repr

/-- A display with every pixel clear (R281). -/
def clearDisplay (p : Config.Params) : FrameBuffer := List.replicate p.displayW (List.replicate p.displayH false)

/-- `construct(display)` with its parameters (R7, R400). Memory lists nothing: it holds the font and zeros. -/
def State.construct (params : Config.Params) (shiftQuirk loadStoreQuirk : Bool) (seed0 : Seed) : State where
  V := Vector.replicate 16 0
  pc := BitVec.ofNat 12 Config.programOrigin
  I := 0
  stack := Vector.replicate _ 0
  sp := 0
  DT := 0
  ST := 0
  mem := []
  halted := false
  awaitingKey := false
  awaitingKeyTarget := none
  repaintPending := false
  shiftQuirk := shiftQuirk
  loadStoreQuirk := loadStoreQuirk
  rngSeed := seed0
  key := Vector.replicate 16 false
  stopped := false
  fault := none
  fb := clearDisplay params
  surface := clearDisplay params
  params := params
  phase := .constructed
  plan := []
  hostGrants := true
  stepsEnded := false

/-- The machine right after reset: the construction of R400 with this hardware's parameters (R52). -/
def State.reset : State :=
  State.construct Config.params Config.shiftQuirk Config.loadStoreQuirk Config.rngSeed0

end Sys2Proof.Machine
end

