-- ==== Sys2Proof/Machine/Ops.lean ====
section
/-! DEFINITION. The named operations over memory, registers, stack, program counter and display, and the one
operation that takes a fatal error (spec 60_exceptions.md R371, R374, R375). There is no return from one (R376). -/

namespace Sys2Proof.Machine

/-- The outcome of a step or of an instruction. -/
abbrev Result := Host.Outcome State Fault Refusal

/-- Apply a state change to a next state; a fault or a refusal passes through. -/
def mapNext (f : State → State) : Result → Result
  | .next s => .next (f s)
  | .fault r => .fault r
  | .refused r => .refused r

/-! ### Memory (20_memory.md) -/

/-- What an address that nothing has written reads as: the font at 0x000..0x04F, else 0 (R52, R72, R400; log 11). -/
def initialByte (font : Config.Font) (a : Nat) : Byte := if h : a < Config.fontBytes then font[a] else 0

/-- The canonical form of memory: addresses below 4096, strictly rising, and no cell that holds what an
unlisted address reads as. -/
def Memory.wf (font : Config.Font) : Memory → Bool
  | [] => true
  | (a, b) :: m => a < Config.memSize && b != initialByte font a && m.all (fun c => a < c.1) && Memory.wf font m

/-- The byte at an address (R80). -/
def readByte (font : Config.Font) : Memory → Nat → Byte
  | [], a => initialByte font a
  | (k, b) :: m, a => if a = k then b else readByte font m a

/-- Store one byte, keeping the canonical form. -/
def writeByte (font : Config.Font) : Memory → Nat → Byte → Memory
  | [], a, b => if b = initialByte font a then [] else [(a, b)]
  | (k, c) :: m, a, b =>
    if a < k then if b = initialByte font a then (k, c) :: m else (a, b) :: (k, c) :: m
    else if a = k then if b = initialByte font a then m else (a, b) :: m
    else (k, c) :: writeByte font m a b

/-- Store bytes at consecutive addresses, the first at the lowest. -/
def storeBytes (font : Config.Font) : Memory → Nat → List Byte → Memory
  | m, _, [] => m
  | m, a, b :: bs => storeBytes font (writeByte font m a b) (a + 1) bs

/-- The byte of the machine's memory at an address (R38, R80). -/
def byteAt (s : State) (a : Nat) : Byte := readByte s.params.font s.mem a

/-- The machine's memory with bytes stored at consecutive addresses (R38, R78). -/
def storedAt (s : State) (a : Nat) (bs : List Byte) : Memory := storeBytes s.params.font s.mem a bs

/-- `MemRead(a, 1)`: the address is exact; past 0xFFF it raises (R74). -/
def memRead (s : State) (a : Nat) : Except FatalError Byte :=
  if Config.maxAddr < a then .error (.memoryOutOfRange a) else .ok (byteAt s a)

/-- `Fetch(pc)`: an odd pc raises; else the big-endian pair at pc (R75, R76, R77). -/
def fetch (s : State) : Except FatalError Word :=
  if s.pc.getLsbD 0 then .error (.misalignedFetch s.pc)
  else
    match memRead s s.pc.toNat, memRead s (s.pc.toNat + 1) with
    | .ok hi, .ok lo => .ok (hi ++ lo)
    | .error e, _ => .error e
    | _, .error e => .error e

/-! ### Registers and stack (10_state.md) -/

/-- `V[x]` (R11, R31). -/
def readV (s : State) (x : RegIdx) : Byte := s.V[x.toNat]'x.isLt

/-- `V[x] <- b` (R11, R31). No register is hardwired. -/
def State.setV (x : RegIdx) (b : Byte) (s : State) : State := { s with V := s.V.set x.toNat b x.isLt }

/-- The register index of VF (R32). -/
abbrev vf : RegIdx := 15

/-- `I <- a` (R34). -/
def State.setI (a : Addr) (s : State) : State := { s with I := a }

/-- `DT <- b` (R37). -/
def State.setDT (b : Byte) (s : State) : State := { s with DT := b }

/-- `ST <- b` (R37). -/
def State.setST (b : Byte) (s : State) : State := { s with ST := b }

/-- `rng_seed <- r` (R43). -/
def State.setSeed (r : Seed) (s : State) : State := { s with rngSeed := r }

/-- The memory after an instruction's stores. -/
def State.setMem (m : Memory) (s : State) : State := { s with mem := m }

/-- Store `pc`, a target already checked to be at most 0xFFF (R180). -/
def State.setPc (t : Nat) (s : State) : State := { s with pc := BitVec.ofNat 12 t }

/-- Push a return address at `stack[sp]`, then count it; `none` with all 16 entries in use (R36, R184, D3). -/
def push (a : Addr) (s : State) : Option State :=
  if h : s.sp.val < Config.stackDepth then
    some { s with stack := s.stack.set s.sp.val a h, sp := ⟨s.sp.val + 1, Nat.succ_lt_succ h⟩ }
  else none

/-- Uncount the top entry, then read it; `none` on an empty stack. The entry keeps its value (R36, R182, D3). -/
def pop (s : State) : Option (Addr × State) :=
  if h : 0 < s.sp.val then
    have hs : s.sp.val - 1 < 16 := by have := s.sp.isLt; omega
    some (s.stack[s.sp.val - 1]'hs, { s with sp := ⟨s.sp.val - 1, by omega⟩ })
  else none

/-! ### Fatal errors (60_exceptions.md) -/

/-- Take a fatal error: record it, stop the instance and leave the loop; nothing else changes. This is the
whole of the machine's exception entry (R371, R374, R375; log 12). -/
def takeFatal (e : FatalError) (s : State) : Result :=
  .next { s with fault := some e, stopped := true, phase := .exited }

/-! ### The end of an instruction (40_execution_engine.md R143, 41_control_flow.md R180, R181) -/

/-- An instruction's effect together with its final `pc <- t`. The target is checked with the other checks,
before any write, so an instruction that raises has no effect (R180, R373, R375). -/
def commit (t : Nat) (effect : State → State) (s : State) : Result :=
  if Config.maxAddr < t then takeFatal (.pcOutOfRange t) s else .next ((effect s).setPc t)

/-- An instruction that advances by 2 (R143a). -/
def advance (effect : State → State) (s : State) : Result := commit (s.pc.toNat + 2) effect s

/-- `pc <- t` with no other effect (R180). -/
def jumpTo (t : Nat) (s : State) : Result := commit t id s

/-- `Skip(c)` (R181). -/
def skipIf (c : Bool) (s : State) : Result := jumpTo (if c then s.pc.toNat + 4 else s.pc.toNat + 2) s

/-! ### The display capability (44_display.md) -/

/-- A pixel: its column and row (R47). -/
abbrev Point := Nat × Nat

/-- The display has `w` columns of `h` pixels each (R47, R283; log 20). -/
def displayWf (fb : FrameBuffer) (w h : Nat) : Bool := fb.length == w && fb.all (fun column => column.length == h)

/-- The pixel that raw coordinates name under the edge policy; `none` where it drops them (R280, R285). -/
def place (p : Config.Params) (x y : Nat) : Option Point :=
  match p.drawEdge with
  | .wrap => some (x % p.displayW, y % p.displayH)
  | .clip => if x < p.displayW ∧ y < p.displayH then some (x, y) else none

/-- `fb[x][y]` (R47). -/
def pixel (fb : FrameBuffer) (pt : Point) : Bool := (fb.getD pt.1 []).getD pt.2 false

/-- The display with one pixel inverted (R280). -/
def flipPixel (fb : FrameBuffer) (pt : Point) : FrameBuffer :=
  fb.modify pt.1 fun column => column.modify pt.2 fun b => !b

/-- `Toggle(x, y)`: the display after it, and whether the pixel was set before (R280). -/
def toggle (p : Config.Params) (fb : FrameBuffer) (x y : Nat) : FrameBuffer × Bool :=
  match place p x y with
  | none => (fb, false)
  | some pt => (flipPixel fb pt, pixel fb pt)

/-- Toggle every listed coordinate in turn, each of them always, and collect whether any was set before its
toggle (R287, C19). -/
def toggleAll (p : Config.Params) : FrameBuffer → List (Nat × Nat) → FrameBuffer × Bool
  | fb, [] => (fb, false)
  | fb, (x, y) :: rest =>
    let one := toggle p fb x y
    let more := toggleAll p one.1 rest
    (more.1, one.2 || more.2)

/-- The coordinates of a row's set bits, leftmost first; bit 7 is the leftmost pixel (R287). -/
def rowPixels (row : Byte) (x0 y : Nat) : List (Nat × Nat) :=
  ((List.range 8).filter fun c => row.getLsbD (7 - c)).map fun c => (x0 + c, y)

/-- The coordinates an N-row sprite at `base` toggles, top row first, one byte a row (R287). -/
def spritePixels (s : State) (base n x0 y0 : Nat) : List (Nat × Nat) :=
  (List.range n).flatMap fun r => rowPixels (byteAt s (base + r)) x0 (y0 + r)

/-- `Clear()`, and the repaint signal (R281, R286). -/
def State.clearScreen (s : State) : State := { s with fb := clearDisplay s.params, repaintPending := true }

/-- The display after a draw, and the repaint signal (R287, R288). -/
def State.setDisplay (fb : FrameBuffer) (s : State) : State := { s with fb := fb, repaintPending := true }

/-- `Repaint()` where it is pending, and the signal cleared (R141, R282). -/
def State.signalRepaint (s : State) : State :=
  if s.repaintPending then { s with surface := s.fb, repaintPending := false } else s

/-- `Width()` (R283). -/
def displayWidth (s : State) : Nat := s.params.displayW

/-- `Height()` (R283). -/
def displayHeight (s : State) : Nat := s.params.displayH

end Sys2Proof.Machine
end

