-- ==== Sys2Proof/Machine/Flags.lean ====
section
/-! DEFINITION. The flag VF: every flag computation of the spec (10_state.md R32, R49, R50; 42_arithmetic.md
R217 to R222; 44_display.md R287), and its write as an instruction's last effect. -/

namespace Sys2Proof.Machine

/-- A flag as VF holds it: 1 or 0. -/
def flagByte (c : Bool) : Byte := if c then 1 else 0

/-- Carry: the exact sum exceeds 255 (R217). -/
def addCarry (a b : Byte) : Bool := 255 < a.toNat + b.toNat

/-- No borrow in `a - b`; 1 at equality (R218, R219, D19). -/
def noBorrow (a b : Byte) : Bool := b.toNat ≤ a.toNat

/-- The bit a right shift by one shifts out (R221). -/
def bitOutRight (s : Byte) : Bool := s.getLsbD 0

/-- The bit a left shift by one shifts out (R222). -/
def bitOutLeft (s : Byte) : Bool := s.getLsbD 7

/-- `VF <- c` (R32). -/
def State.setFlag (c : Bool) (s : State) : State := s.setV vf (flagByte c)

/-- Write a result, then the flag as the last effect: with X = 15 the flag wins (R32, R210e, R406). -/
def State.setWithFlag (x : RegIdx) (result : Byte) (c : Bool) (s : State) : State := (s.setV x result).setFlag c

end Sys2Proof.Machine
end

