-- ==== Sys2Proof/Machine/Operands.lean ====
section
/-! DEFINITION. How operands are formed: shift input, key operand, addresses from `I`, register blocks,
decimal digits, glyph addresses (spec 42_arithmetic.md R220; 43_memory_ops.md R252 to R257; 46_input.md R334;
47_sprite_font.md R361). -/

namespace Sys2Proof.Machine

/-- The input byte of a shift: `vx` under the quirk, else `vy` (R220). -/
def shiftInput (s : State) (x y : RegIdx) : Byte := if s.shiftQuirk then readV s x else readV s y

/-- The key a register names, if it is at most 15 (R334, D23). -/
def keyOperand (b : Byte) : Option Key := if b.toNat ≤ 15 then some (b.setWidth 4) else none

/-- `key[k]` (R44). -/
def keyIsDown (s : State) (k : Key) : Bool := s.key[k.toNat]'k.isLt

/-- The address of transfer `k`, exact (R257). -/
def dataAddr (s : State) (k : Nat) : Nat := s.I.toNat + k

/-- V0 through V[X], in ascending order: the X + 1 registers of a block transfer (R253). -/
def blockRegs (s : State) (x : RegIdx) : List Byte := s.V.toList.take (x.toNat + 1)

/-- The registers after V0 through V[X] are loaded from `X + 1` bytes at `base`; the others keep their values
(R253, R255). -/
def loadedRegs (s : State) (x : RegIdx) (base : Nat) : Vector Byte 16 :=
  Vector.ofFn fun k : Fin 16 => if k.val ≤ x.toNat then byteAt s (base + k.val) else s.V[k.val]

/-- `I` after a block transfer: advanced by `X + 1` mod 4096 unless the quirk is on (R256, D11). -/
def indexAfterBlock (s : State) (x : RegIdx) : Addr :=
  if s.loadStoreQuirk then s.I else s.I + BitVec.ofNat 12 (x.toNat + 1)

/-- The three decimal digits: hundreds, tens, ones (R252). -/
def decimalDigits (b : Byte) : List Byte :=
  [BitVec.ofNat 8 (b.toNat / 100), BitVec.ofNat 8 (b.toNat / 10 % 10), BitVec.ofNat 8 (b.toNat % 10)]

/-- The address `5 * vx`, with no masking (R361, D22). -/
def glyphAddr (b : Byte) : Addr := BitVec.ofNat 12 (5 * b.toNat)

end Sys2Proof.Machine
end

