-- ==== Sys2Proof/Machine/Arithmetic.lean ====
section
/-! DEFINITION. The register loads, the 8-bit operations, the shifts and the random byte (spec 42_arithmetic.md
R211 to R223). Every operand is read from the state before the instruction (R210a). -/

namespace Sys2Proof.Machine

/-- `LD Vx, NN` (R211). -/
def execLdImm (x : RegIdx) (nn : Byte) (s : State) : Result := advance (·.setV x nn) s

/-- `ADD Vx, NN` (R212): mod 256, no flag. -/
def execAddImm (x : RegIdx) (nn : Byte) (s : State) : Result := advance (·.setV x (readV s x + nn)) s

/-- `LD Vx, Vy` (R213). -/
def execLdReg (x y : RegIdx) (s : State) : Result := advance (·.setV x (readV s y)) s

/-- `OR Vx, Vy` (R214): no flag (D20). -/
def execOrReg (x y : RegIdx) (s : State) : Result := advance (·.setV x (readV s x ||| readV s y)) s

/-- `AND Vx, Vy` (R215): no flag (D20). -/
def execAndReg (x y : RegIdx) (s : State) : Result := advance (·.setV x (readV s x &&& readV s y)) s

/-- `XOR Vx, Vy` (R216): no flag (D20). -/
def execXorReg (x y : RegIdx) (s : State) : Result := advance (·.setV x (readV s x ^^^ readV s y)) s

/-- `ADD Vx, Vy` (R217): VF is the carry. -/
def execAddReg (x y : RegIdx) (s : State) : Result :=
  advance (·.setWithFlag x (readV s x + readV s y) (addCarry (readV s x) (readV s y))) s

/-- `SUB Vx, Vy` (R218): VF is no borrow. -/
def execSubReg (x y : RegIdx) (s : State) : Result :=
  advance (·.setWithFlag x (readV s x - readV s y) (noBorrow (readV s x) (readV s y))) s

/-- `SHR Vx, Vy` (R220, R221): VF is the bit shifted out. -/
def execShr (x y : RegIdx) (s : State) : Result :=
  advance (·.setWithFlag x (shiftInput s x y >>> 1) (bitOutRight (shiftInput s x y))) s

/-- `SUBN Vx, Vy` (R219): VF is no borrow, operands exchanged. -/
def execSubn (x y : RegIdx) (s : State) : Result :=
  advance (·.setWithFlag x (readV s y - readV s x) (noBorrow (readV s y) (readV s x))) s

/-- `SHL Vx, Vy` (R220, R222): VF is the bit shifted out. -/
def execShl (x y : RegIdx) (s : State) : Result :=
  advance (·.setWithFlag x (shiftInput s x y <<< 1) (bitOutLeft (shiftInput s x y))) s

/-- `RND Vx, NN` (R223): the byte of `RNG_STEP`, masked; the seed always advances. -/
def execRnd (x : RegIdx) (nn : Byte) (s : State) : Result :=
  advance (fun s => (s.setSeed (Config.rngStep s.rngSeed).2).setV x ((Config.rngStep s.rngSeed).1 &&& nn)) s

end Sys2Proof.Machine
end

