-- ==== Sys2Proof/Machine/ControlFlow.lean ====
section
/-! DEFINITION. The control-flow instructions (spec 41_control_flow.md R182 to R189). -/

namespace Sys2Proof.Machine

/-- `RET` (R182): decrement, then read the entry. Every entry is a 12-bit address, so the target is in range. -/
def execRet (s : State) : Result :=
  match pop s with
  | none => takeFatal (.stackUnderflow s.pc) s
  | some (a, s') => .next (s'.setPc a.toNat)

/-- `JP NNN` (R183). -/
def execJp (nnn : Addr) (s : State) : Result := jumpTo nnn.toNat s

/-- `CALL NNN` (R184): the stack check comes before the check of the return address. -/
def execCall (nnn : Addr) (s : State) : Result :=
  match push (BitVec.ofNat 12 (s.pc.toNat + 2)) s with
  | none => takeFatal (.stackOverflow s.pc) s
  | some s' =>
    if Config.maxAddr < s.pc.toNat + 2 then takeFatal (.pcOutOfRange (s.pc.toNat + 2)) s
    else .next (s'.setPc nnn.toNat)

/-- `SE Vx, NN` (R185). -/
def execSeImm (x : RegIdx) (nn : Byte) (s : State) : Result := skipIf (readV s x == nn) s

/-- `SNE Vx, NN` (R186). -/
def execSneImm (x : RegIdx) (nn : Byte) (s : State) : Result := skipIf (readV s x != nn) s

/-- `SE Vx, Vy` (R187). -/
def execSeReg (x y : RegIdx) (s : State) : Result := skipIf (readV s x == readV s y) s

/-- `SNE Vx, Vy` (R188). -/
def execSneReg (x y : RegIdx) (s : State) : Result := skipIf (readV s x != readV s y) s

/-- `JP V0, NNN` (R189): the exact sum, always with V0 (D21). -/
def execJpV0 (nnn : Addr) (s : State) : Result := jumpTo (nnn.toNat + (readV s 0).toNat) s

end Sys2Proof.Machine
end

