-- ==== Sys2Proof/Machine/Display.lean ====
section
/-! DEFINITION. The display instructions (spec 44_display.md R286, R287). -/

namespace Sys2Proof.Machine

/-- `CLS` (R286). -/
def execCls (s : State) : Result := advance State.clearScreen s

/-- A draw's effect: toggle the sprite's set bits, signal the repaint, then VF as the last effect (R287). -/
def drawSprite (x y : RegIdx) (n : Nibble) (s : State) : State :=
  let drawn := toggleAll s.params s.fb
    (spritePixels s (dataAddr s 0) n.toNat (readV s x).toNat (readV s y).toNat)
  (s.setDisplay drawn.1).setFlag drawn.2

/-- `DRW Vx, Vy, N` (R287): with N = 0 it reads and toggles nothing (D14). -/
def execDrw (x y : RegIdx) (n : Nibble) (s : State) : Result :=
  if 0 < n.toNat ∧ Config.maxAddr < dataAddr s n.toNat - 1 then
    takeFatal (.memoryOutOfRange (dataAddr s n.toNat - 1)) s
  else advance (drawSprite x y n) s

end Sys2Proof.Machine
end

