-- ==== Sys2Proof/Machine/Input.lean ====
section
/-! DEFINITION. The input instructions (spec 46_input.md R334 to R336) and the Input Bridge: key events and the
resolution of a key-wait (R330 to R333, R340, R341). -/

namespace Sys2Proof.Machine

/-- `SKP Vx` (R334). -/
def execSkp (x : RegIdx) (s : State) : Result :=
  match keyOperand (readV s x) with
  | none => takeFatal (.keyIndexOutOfRange (readV s x)) s
  | some k => skipIf (keyIsDown s k) s

/-- `SKNP Vx` (R335). -/
def execSknp (x : RegIdx) (s : State) : Result :=
  match keyOperand (readV s x) with
  | none => takeFatal (.keyIndexOutOfRange (readV s x)) s
  | some k => skipIf (!keyIsDown s k) s

/-- A key-wait begins, to write V[x] later (R336, R40). -/
def State.beginWait (x : RegIdx) (s : State) : State :=
  { s with halted := true, awaitingKey := true, awaitingKeyTarget := some x }

/-- The key-wait's fields after it is resolved (R341). -/
def State.endWait (s : State) : State :=
  { s with halted := false, awaitingKey := false, awaitingKeyTarget := none }

/-- After a resolution on a stopped instance no step runs any more; on a running one the steps go on (R146, R339,
R378, D36; log 19). -/
def State.endSteps (s : State) : State := { s with stepsEnded := s.stepsEnded || s.stopped }

/-- `LD Vx, K` (R336): the wait begins and pc stays; the later advance is checked here. -/
def execLdKey (x : RegIdx) (s : State) : Result :=
  if Config.maxAddr < s.pc.toNat + 2 then takeFatal (.pcOutOfRange (s.pc.toNat + 2)) s
  else .next (s.beginWait x)

/-- The byte a resolved key-wait writes (R340). -/
def keyWaitByte (p : Config.Params) (k : Key) : Byte :=
  match p.keyWaitValue with
  | .keyIndex => k.setWidth 8
  | .placeholder => p.keyWaitPlaceholder

/-- `Resolve(k)` (R341), and the end of a stopped instance's steps (R339). The Lean fault is for states no run reaches (R53(6), R336; log 8). -/
def resolve (k : Key) (s : State) : Result :=
  match s.awaitingKeyTarget with
  | none => .fault .keyWaitCorrupt
  | some t =>
    if Config.maxAddr < s.pc.toNat + 2 then .fault .keyWaitCorrupt
    else .next ((s.setV t (keyWaitByte s.params k)).endWait.endSteps.setPc (s.pc.toNat + 2))

/-- The key states after one changes (R331). -/
def State.setKey (k : Key) (down : Bool) (s : State) : State :=
  { s with key := s.key.set k.toNat down k.isLt }

/-- `key_down(code)`: an unmapped code does nothing (R330, R332). Where it ends no wait, a tick in progress keeps its
steps (R149; DESIGN CHOICE on a stopped instance, log 19). -/
def keyDown (code : Option Key) (s : State) : Result :=
  match code with
  | none => .next s
  | some k => if s.awaitingKey then resolve k (s.setKey k true) else .next (s.setKey k true)

/-- `key_up(code)`: never resolves a key-wait (R330, R333). -/
def keyUp (code : Option Key) (s : State) : State :=
  match code with
  | none => s
  | some k => s.setKey k false

end Sys2Proof.Machine
end

