-- ==== Sys2Proof/Machine/MemoryOps.lean ====
section
/-! DEFINITION. The index register and the memory transfers (spec 43_memory_ops.md R250 to R256). Every
address is checked before any write (R253, R375). -/

namespace Sys2Proof.Machine

/-- `LD I, NNN` (R250). -/
def execLdI (nnn : Addr) (s : State) : Result := advance (·.setI nnn) s

/-- `ADD I, Vx` (R251): mod 4096, no flag (D11). -/
def execAddI (x : RegIdx) (s : State) : Result := advance (·.setI (s.I + (readV s x).setWidth 12)) s

/-- `LD B, Vx` (R252). -/
def execLdB (x : RegIdx) (s : State) : Result :=
  if Config.maxAddr < dataAddr s 2 then takeFatal (.memoryOutOfRange (dataAddr s 2)) s
  else advance (·.setMem (storedAt s (dataAddr s 0) (decimalDigits (readV s x)))) s

/-- `LD [I], Vx` (R253, R254, R256). -/
def execStore (x : RegIdx) (s : State) : Result :=
  if Config.maxAddr < dataAddr s x.toNat then takeFatal (.memoryOutOfRange (dataAddr s x.toNat)) s
  else
    advance (fun s => (s.setMem (storedAt s (dataAddr s 0) (blockRegs s x))).setI (indexAfterBlock s x)) s

/-- `LD Vx, [I]` (R253, R255, R256). -/
def execLoad (x : RegIdx) (s : State) : Result :=
  if Config.maxAddr < dataAddr s x.toNat then takeFatal (.memoryOutOfRange (dataAddr s x.toNat)) s
  else
    advance (fun s => State.setI (indexAfterBlock s x) { s with V := loadedRegs s x (dataAddr s 0) }) s

end Sys2Proof.Machine
end

