-- ==== Sys2Proof/Machine/SpriteFont.lean ====
section
/-! DEFINITION. The font instruction (spec 47_sprite_font.md R361). -/

namespace Sys2Proof.Machine

/-- `LD F, Vx` (R361). -/
def execLdF (x : RegIdx) (s : State) : Result := advance (·.setI (glyphAddr (readV s x))) s

end Sys2Proof.Machine
end

