-- ==== Sys2Proof/Machine/Timer.lean ====
section
/-! DEFINITION. The countdown engine and the timer instructions (spec 45_timer.md R310 to R313). -/

namespace Sys2Proof.Machine

/-- One timer's decrement, floored at zero (R310). -/
def countDown (t : Byte) : Byte := if 0 < t.toNat then t - 1 else t

/-- `DecTimers()` (R310). -/
def decTimers (s : State) : State := { s with DT := countDown s.DT, ST := countDown s.ST }

/-- `LD Vx, DT` (R311). -/
def execLdFromDt (x : RegIdx) (s : State) : Result := advance (·.setV x s.DT) s

/-- `LD DT, Vx` (R312). -/
def execLdDt (x : RegIdx) (s : State) : Result := advance (·.setDT (readV s x)) s

/-- `LD ST, Vx` (R313). -/
def execLdSt (x : RegIdx) (s : State) : Result := advance (·.setST (readV s x)) s

end Sys2Proof.Machine
end

