-- ==== Sys2Proof/Machine/HostCalls.lean ====
section
/-! DEFINITION. The public surface of the core: the host's calls and their replies (spec 60_exceptions.md R378,
70_reset_and_hazards.md R403, 40_execution_engine.md R149, R150). -/

namespace Sys2Proof.Machine

/-- The room after the program origin: 3584 bytes (R403). -/
def loadCapacity : Nat := Config.memSize - Config.programOrigin

/-- `load_program(bytes)`: a longer program fails before anything is written; no field but memory changes
(R383, R403). -/
def loadProgram (bytes : List Byte) (s : State) : Except FatalError State :=
  if loadCapacity < bytes.length then .error (.loadCapacityError bytes.length)
  else .ok (s.setMem (storedAt s Config.programOrigin bytes))

/-- `stop()`: sets the flag; a tick in progress completes (R149). -/
def stopCall (s : State) : State := { s with stopped := true }

/-- `is_done()` (R150). -/
def isDone (s : State) : Bool := s.stopped

/-- `is_paused()` (R150). -/
def isPaused (s : State) : Bool := s.halted

/-- A host call's effect (R378). `run` starts the loop, whose first stop check is the core's next move; on an
instance whose loop has exited, which is stopped, it finds that and changes nothing (R376). A call the spec has the
host never make faults by name (N2, N6; log 7). -/
def hostCall (c : HostCall) (s : State) : Result :=
  match c with
  | .loadProgram bytes =>
    match s.phase, loadProgram bytes s with
    | .constructed, .ok s' => .next s'
    | .constructed, .error _ => .next s
    | _, _ => .fault .loadAfterRun
  | .run =>
    match s.phase with
    | .constructed => .next { s with phase := .checkStop }
    | .exited => .next s
    | _ => .fault .secondRun
  | .stop => .next (stopCall s)
  | .keyDown code => keyDown code s
  | .keyUp code => .next (keyUp code s)
  | .isDone => .next s
  | .isPaused => .next s

/-- What a host call answers (R150, R378, R383). -/
def hostReply (c : HostCall) (s : State) : HostReply :=
  match c with
  | .loadProgram bytes =>
    match loadProgram bytes s with
    | .ok _ => .done
    | .error e => .failed e
  | .isDone => .answer (isDone s)
  | .isPaused => .answer (isPaused s)
  | .run | .stop | .keyDown _ | .keyUp _ => .done

end Sys2Proof.Machine
end

