-- ==== Sys2Proof/Machine/Scheduler.lean ====
section
/-! DEFINITION. One `step`, the cycle, the scheduler loop, and the interleaving with the host (spec
40_execution_engine.md R141 to R149). -/

namespace Sys2Proof.Machine

/-- After an executed instruction: where it raised, the loop was left and nothing more happens; else the
repaint signal is served and the cycle has `left` steps still to do (R141, R144, R371). -/
def afterExec (left : Nat) (s : State) : State :=
  if s.phase = .exited then s else { s.signalRepaint with phase := .inCycle left }

/-- `step()` is a no-op: while halted (R141), and after a `key_down` has ended a wait of the stopped instance
(R339, R378, D36; log 19). -/
def stepIdle (s : State) : Bool := s.halted || s.stepsEnded

/-- `step()` inside a cycle with `left` steps to do after it: a no-op where it is idle, else fetch, decode,
execute, repaint signal (R141, R146). It does not read `stopped` (R149, C13). -/
def instrStep (left : Nat) (s : State) : Result :=
  if stepIdle s then .next { s with phase := .inCycle left }
  else
    match fetch s with
    | .error e => takeFatal e s
    | .ok op =>
      match decode op with
      | .error _ => takeFatal (.decodeError op) s
      | .ok i => mapNext (afterExec left) (exec i s)

/-- `cycle()` begins: a no-op while halted, after which the loop comes round to its next stop check; else
its first step (R144, R147). -/
def beginCycle (s : State) : Result :=
  if s.halted then .next { s with phase := .checkStop }
  else
    match s.params.stepsPerTick with
    | 0 => .next { s with phase := .inCycle 0 }
    | left + 1 => instrStep left s

/-- The cycle ends with the timers' decrement; the loop's next stop check is next (R144, R147, D6). It does so too
where the steps of a stopped instance have ended (DESIGN CHOICE, log 19). -/
def endCycle (s : State) : State :=
  let s := if !s.halted || s.params.timerDecAfterMidcycleHalt then decTimers s else s
  { s with phase := .checkStop }

/-- The loop's check of the stop flag: it exits, or goes on to await the next frame (R147). -/
def stopCheck (s : State) : State := { s with phase := if s.stopped then .exited else .awaitFrame }

/-- The core's next move (R147; log 5). Where it waits for `run` or for a frame, this is the move it makes
once the host has called `run` (whose first stop check may end it) or granted the frame. Only the two
stop checks read `stopped` (R149, C13). -/
def coreMove (s : State) : Result :=
  match s.phase with
  | .constructed => if s.stopped then .next { s with phase := .exited } else beginCycle s
  | .checkStop => .next (stopCheck s)
  | .awaitFrame => beginCycle s
  | .inCycle 0 => .next (endCycle s)
  | .inCycle (left + 1) => instrStep left s
  | .exited => .next s

/-- The core waits for the host: for its `run`, or for a frame (R147, R404). -/
def waitsForHost (s : State) : Bool := s.phase == .constructed || s.phase == .awaitFrame

/-- One turn of host and core: the first of the host's moves still to come (R148; log 6). When the plan is empty
it is the core's move, unless the core waits for a host that never grants: then nothing changes, this turn and
every later one (R151). -/
def takeTurn (s : State) : Result :=
  match s.plan with
  | [] => if waitsForHost s && !s.hostGrants then .next s else coreMove s
  | .letCore :: rest => coreMove { s with plan := rest }
  | .withholdFrame :: rest => .next { s with plan := rest }
  | .call c :: rest => hostCall c { s with plan := rest }

/-- The phase from which the core's next move is a `step()`: the state's own where it is one, else inside a
cycle with one step to do. -/
def fetchPhase (s : State) : Phase :=
  match s.phase, s.params.stepsPerTick with
  | .constructed, _ + 1 => if s.stopped then .inCycle 1 else .constructed
  | .awaitFrame, _ + 1 => .awaitFrame
  | .inCycle (left + 1), _ => .inCycle (left + 1)
  | _, _ => .inCycle 1

/-- The state made ready to fetch: what already permits the fetch stays as it is (from `State.reset`
nothing changes). -/
def readyToFetch (s : State) : State :=
  let s := if s.halted then { s with halted := false, awaitingKey := false, awaitingKeyTarget := none } else s
  { s with plan := [], hostGrants := true, stepsEnded := false, pc := s.pc &&& 0xFFE, phase := fetchPhase s }

end Sys2Proof.Machine
end

