-- ==== Sys2Proof/Machine/Step.lean ====
section
/-! DEFINITION. The machine's step, and the placing of an instruction where it is fetched next. -/

namespace Sys2Proof.Machine

/-- One turn of the machine: a host call that is due, or the core's next move, which is one instruction
except at a cycle's end (R141, R144, R147, R148). -/
def step (s : State) : Host.Outcome State Fault Refusal := takeTurn s

/-- The table word stored big-endian at the pc, with the state made ready to fetch it (R75). -/
def State.withFetchWord (s : State) (nbits w : Nat) : State :=
  { readyToFetch s with mem := storedAt s (readyToFetch s).pc.toNat (bytesOfWord (tableWord nbits w)) }

end Sys2Proof.Machine
end

