-- ==== Sys2Proof/Safety.lean ====
section
/-! DEFINITION. What counts as a sound state: the invariants of spec 10_state.md R53, the model's own invariant
over them, the host's duties (93_implementation_defined.md N2, N6), and whose move is next. -/

namespace Sys2Proof.Safety

open Sys2Proof.Machine

/-- The invariants R53 lists, but for "`stopped` never goes from true to false", which is about two states.
Items (1), (2), (4) and (5) hold by the fields' types. -/
structure SpecInv (s : State) : Prop where
  pc_le : s.pc.toNat ≤ 0xFFF
  index_le : s.I.toNat ≤ 0xFFF
  sp_le : s.sp.val ≤ 16
  timers_le : s.DT.toNat ≤ 255 ∧ s.ST.toNat ≤ 255
  target_iff : s.awaitingKeyTarget ≠ none ↔ s.awaitingKey = true
  awaiting_halted : s.awaitingKey = true → s.halted = true
  fault_stopped : s.fault ≠ none → s.stopped = true

/-- The display is sound: its sizes are at least 1 (R7), and its pixels have the shape they say (R47; log 20). -/
structure DisplaySound (p : Config.Params) (fb : FrameBuffer) : Prop where
  width_pos : 1 ≤ p.displayW
  height_pos : 1 ≤ p.displayH
  shape : displayWf fb p.displayW p.displayH = true

/-- The model's invariant: what every reachable state satisfies besides R53. -/
structure Inv (s : State) : Prop where
  /-- Memory is in its canonical form (log 11). -/
  mem_wf : Memory.wf s.params.font s.mem = true
  /-- R53(6). -/
  target_iff : s.awaitingKeyTarget.isSome = s.awaitingKey
  /-- R53(7), and its converse: only FX0A sets `halted`, only the resolution clears it (R39). -/
  halted_eq : s.halted = s.awaitingKey
  /-- FX0A has checked the advance that the resolution makes (R336). -/
  wait_pc : s.awaitingKey = true → s.pc.toNat + 2 ≤ 0xFFF
  /-- A key-wait begins in a step, so after `run` (R147, R336). -/
  wait_run : s.awaitingKey = true → s.phase ≠ .constructed
  /-- The steps end where a wait of a stopped instance does, and no step begins another (R339; log 19). -/
  steps_ended : s.stepsEnded = true → s.stopped = true ∧ s.awaitingKey = false ∧ s.phase ≠ .constructed
  /-- R53(8). -/
  fault_stopped : s.fault ≠ none → s.stopped = true
  /-- A fatal error leaves the loop (R371). -/
  fault_exited : s.fault ≠ none → s.phase = .exited
  /-- Kind 8 is returned to the host, never recorded (R370, R383). -/
  fault_kind : ∀ n, s.fault ≠ some (.loadCapacityError n)
  /-- The loop exits only stopped (R147). -/
  exited_stopped : s.phase = .exited → s.stopped = true
  /-- The repaint signal is false between steps (R288). -/
  no_repaint : s.repaintPending = false
  /-- The visible surface is up to date after every step (R410; log 9). -/
  surface_eq : s.surface = s.fb
  /-- The display has its size, at least 1 by 1 (R7, R47; log 20). -/
  display : DisplaySound s.params s.fb
  /-- `STEPS_PER_TICK` is at least 1 (R7). -/
  steps_pos : 1 ≤ s.params.stepsPerTick
  /-- The steps left in a cycle are fewer than `STEPS_PER_TICK` (R144). -/
  left_lt : ∀ left, s.phase = .inCycle left → left < s.params.stepsPerTick

/-- The host keeps its duties at this turn: `load_program` only before `run` (N2), no second `run` while the
loop runs (N6). -/
def HostDuty (s : State) : Prop :=
  (∀ bytes rest, s.plan = .call (.loadProgram bytes) :: rest → s.phase = .constructed) ∧
  (∀ rest, s.plan = .call .run :: rest → s.phase = .constructed ∨ s.phase = .exited)

/-- The machine after a fatal error: the error recorded, the instance stopped, the loop left, all else as it
was (R371, R375). -/
def raised (e : FatalError) (s : State) : State :=
  { s with fault := some e, stopped := true, phase := .exited }

/-- The core's next move from `s` is a `step()` that leaves `left` steps of the cycle (R144, R147). -/
def StepsNext (s : State) (left : Nat) : Prop :=
  s.phase = .inCycle (left + 1) ∨
  s.phase = .awaitFrame ∧ s.params.stepsPerTick = left + 1 ∨
  s.phase = .constructed ∧ s.stopped = false ∧ s.params.stepsPerTick = left + 1

/-- It is the core's turn: the host lets it move, or the host's plan is empty and the core waits for nothing
from it, or for what it grants (R148, R151; log 6). -/
def CoresTurn (s : State) : Prop :=
  s.plan.head? = some .letCore ∨ s.plan = [] ∧ (waitsForHost s = true → s.hostGrants = true)

/-- The core waits for a host that never grants (R151; log 6). -/
def WaitsForever (s : State) : Prop := s.plan = [] ∧ waitsForHost s = true ∧ s.hostGrants = false

end Sys2Proof.Safety
end

