-- ==== Sys2Proof/Certificates/Slice0/Obligations.lean ====
section
/-! DEFINITION. The statements for the provers, each from the numbered rules its docstring names. -/

namespace Sys2Proof.Claims

open Sys2Proof.Machine Sys2Proof.Safety

/-- Every byte of memory reads as before. -/
def SameMem (s t : State) : Prop := ∀ a, byteAt t a = byteAt s a

/-- The instruction advances by 2: where the advance stays in 0xFFF it completes with `post` between the states,
else it raises `PcOutOfRange` of the exact target and has no effect (R143a, R180, R210c, R210d, R375). -/
def Advances (i : Instr) (post : State → State → Prop) : Prop :=
  ∀ s : State,
    (s.pc.toNat + 2 ≤ 0xFFF → ∃ t, exec i s = .next t ∧ t.pc.toNat = s.pc.toNat + 2 ∧ post s t) ∧
    (0xFFF < s.pc.toNat + 2 → exec i s = .next (raised (.pcOutOfRange (s.pc.toNat + 2)) s))

/-- It advances, having written `value` to V[x] and nothing else. -/
def WritesReg (i : Instr) (x : RegIdx) (value : State → Byte) : Prop :=
  Advances i fun s t =>
    (∀ r, readV t r = if r = x then value s else readV s r) ∧
    t = { s with V := t.V, pc := t.pc } ∧ SameMem s t

/-- It advances, having written `value` to V[x] and then `flag` to VF, which wins where x is 15, and nothing else. -/
def WritesRegAndFlag (i : Instr) (x : RegIdx) (value : State → Byte) (flag : State → Bool) : Prop :=
  Advances i fun s t =>
    (∀ r, readV t r = if r = 15 then (if flag s then 1 else 0) else if r = x then value s else readV s r) ∧
    t = { s with V := t.V, pc := t.pc } ∧ SameMem s t

/-- It advances, having written `value` to `I` and nothing else. -/
def WritesIndex (i : Instr) (value : State → Nat) : Prop :=
  Advances i fun s t => t.I.toNat = value s ∧ t = { s with I := t.I, pc := t.pc } ∧ SameMem s t

/-- From `s` it goes to `target` with no other effect, or raises `PcOutOfRange target` (R180). -/
def GoesTo (i : Instr) (s : State) (target : Nat) : Prop :=
  (target ≤ 0xFFF →
    ∃ t, exec i s = .next t ∧ t.pc.toNat = target ∧ t = { s with pc := t.pc } ∧ SameMem s t) ∧
  (0xFFF < target → exec i s = .next (raised (.pcOutOfRange target) s))

/-- `Skip(c)` (R181). -/
def SkipsIf (i : Instr) (s : State) (c : Bool) : Prop :=
  GoesTo i s (if c then s.pc.toNat + 4 else s.pc.toNat + 2)

/-- The input of a shift as a number (R220). -/
def shiftIn (s : State) (x y : RegIdx) : Nat := if s.shiftQuirk then (readV s x).toNat else (readV s y).toNat

/-- How many set bits of the sprite's rows land on pixel `p` under the display's edge policy: bit 7 - col of the
row byte at `I + row` goes to (V[x] + col, V[y] + row) (R280, R287). At most one does on a display at least 8 wide
and 15 high. -/
def hits (s : State) (x y : RegIdx) (n : Nibble) (p : Point) : Nat :=
  ((List.range n.toNat).flatMap fun row => (List.range 8).map fun col => (row, col)).countP fun (row, col) =>
    (byteAt s (s.I.toNat + row)).getLsbD (7 - col) &&
      place s.params ((readV s x).toNat + col) ((readV s y).toNat + row) == some p

/-- The instruction can write VF: it sets a flag (R50), or its destination registers take in V[15]. -/
def canWriteVf : Instr → Bool
  | .addReg _ _ | .subReg _ _ | .shr _ _ | .subn _ _ | .shl _ _ | .drw _ _ _ => true
  | .ldImm x _ | .addImm x _ | .ldReg x _ | .orReg x _ | .andReg x _ | .xorReg x _ | .rnd x _
  | .ldFromDt x | .load x => x == 15
  | .cls | .ret | .jp _ | .call _ | .seImm _ _ | .sneImm _ _ | .seReg _ _ | .sneReg _ _ | .ldI _ | .jpV0 _
  | .skp _ | .sknp _ | .ldKey _ | .ldDt _ | .ldSt _ | .addI _ | .ldF _ | .ldB _ | .store _ => false

/-- `pc <- t` raises where `t` passes 0xFFF (R180). -/
def pcError (t : Nat) : Option FatalError := if 0xFFF < t then some (.pcOutOfRange t) else none

/-- An access whose highest address is `a`, then the advance by 2 (R74, R373). -/
def memoryError (s : State) (a : Nat) : Option FatalError :=
  if 0xFFF < a then some (.memoryOutOfRange a) else pcError (s.pc.toNat + 2)

/-- A skip on a key: its operand past 15, then the target of a skip that is taken where `taken` says so of the
key's state (R334, R335, R373). -/
def keyError (s : State) (x : RegIdx) (taken : Bool → Bool) : Option FatalError :=
  match s.key[(readV s x).toNat]? with
  | none => some (.keyIndexOutOfRange (readV s x))
  | some down => pcError (s.pc.toNat + if taken down then 4 else 2)

/-- The error an instruction raises: the first of its rule's checks that fails, its final `pc <- t` last (R373). -/
def errorOf (s : State) : Instr → Option FatalError
  | .ret => if s.sp.val = 0 then some (.stackUnderflow s.pc) else none
  | .jp _ => none
  | .call _ => if s.sp.val = 16 then some (.stackOverflow s.pc) else pcError (s.pc.toNat + 2)
  | .jpV0 nnn => pcError (nnn.toNat + (readV s 0).toNat)
  | .seImm x nn => pcError (s.pc.toNat + if readV s x = nn then 4 else 2)
  | .sneImm x nn => pcError (s.pc.toNat + if readV s x = nn then 2 else 4)
  | .seReg x y => pcError (s.pc.toNat + if readV s x = readV s y then 4 else 2)
  | .sneReg x y => pcError (s.pc.toNat + if readV s x = readV s y then 2 else 4)
  | .skp x => keyError s x id
  | .sknp x => keyError s x not
  | .drw _ _ n => memoryError s (if n = 0 then 0 else s.I.toNat + n.toNat - 1)
  | .ldB _ => memoryError s (s.I.toNat + 2)
  | .store x | .load x => memoryError s (s.I.toNat + x.toNat)
  | .cls | .ldImm _ _ | .addImm _ _ | .ldReg _ _ | .orReg _ _ | .andReg _ _ | .xorReg _ _ | .addReg _ _
  | .subReg _ _ | .shr _ _ | .subn _ _ | .shl _ _ | .ldI _ | .rnd _ _ | .ldFromDt _ | .ldKey _ | .ldDt _
  | .ldSt _ | .addI _ | .ldF _ => pcError (s.pc.toNat + 2)

/-- A timer that held `t`, after `n` decrements: max(0, t - n) (R315). -/
def counted (n : Nat) (t : Byte) : Nat := t.toNat - n

end Sys2Proof.Claims

open Sys2Proof Sys2Proof.Machine Sys2Proof.Safety Sys2Proof.Claims

/-! ### Control flow (41_control_flow.md) -/

/-- R182. -/
def Obligations.ReturnPopsTheStack : Prop :=
  decode 0x00EE = .ok .ret ∧
  (∀ s : State, 0 < s.sp.val → ∃ t, exec .ret s = .next t ∧ t.sp.val = s.sp.val - 1 ∧
    s.stack[s.sp.val - 1]? = some t.pc ∧ t = { s with sp := t.sp, pc := t.pc } ∧ SameMem s t) ∧
  (∀ s : State, s.sp.val = 0 → exec .ret s = .next (raised (.stackUnderflow s.pc) s))

/-- R183. -/
def Obligations.JumpSetsThePc : Prop :=
  ∀ nnn : Addr, decode (0x1#4 ++ nnn) = .ok (.jp nnn) ∧
    ∀ s : State, ∃ t, exec (.jp nnn) s = .next t ∧ t.pc = nnn ∧ t = { s with pc := t.pc } ∧ SameMem s t

/-- R184. -/
def Obligations.CallPushesTheReturnAddress : Prop :=
  ∀ nnn : Addr, decode (0x2#4 ++ nnn) = .ok (.call nnn) ∧ ∀ s : State,
    (s.sp.val = 16 → exec (.call nnn) s = .next (raised (.stackOverflow s.pc) s)) ∧
    (s.sp.val < 16 → 0xFFF < s.pc.toNat + 2 →
      exec (.call nnn) s = .next (raised (.pcOutOfRange (s.pc.toNat + 2)) s)) ∧
    (s.sp.val < 16 → s.pc.toNat + 2 ≤ 0xFFF → ∃ t, exec (.call nnn) s = .next t ∧
      t.pc = nnn ∧ t.sp.val = s.sp.val + 1 ∧
      (∀ j < 16, t.stack[j]? = if j = s.sp.val then some (BitVec.ofNat 12 (s.pc.toNat + 2)) else s.stack[j]?) ∧
      t = { s with stack := t.stack, sp := t.sp, pc := t.pc } ∧ SameMem s t)

/-- R185, R186: the skips that compare with a byte. -/
def Obligations.ByteSkipsCompare : Prop :=
  ∀ (x : RegIdx) (nn : Byte),
    decode (0x3#4 ++ x ++ nn) = .ok (.seImm x nn) ∧ decode (0x4#4 ++ x ++ nn) = .ok (.sneImm x nn) ∧
    ∀ s : State, SkipsIf (.seImm x nn) s (decide ((readV s x).toNat = nn.toNat)) ∧
      SkipsIf (.sneImm x nn) s (decide ((readV s x).toNat ≠ nn.toNat))

/-- R187, R188: the skips that compare two registers, and their illegal neighbours. -/
def Obligations.RegisterSkipsCompare : Prop :=
  ∀ x y : RegIdx,
    decode (0x5#4 ++ x ++ y ++ 0x0#4) = .ok (.seReg x y) ∧ decode (0x9#4 ++ x ++ y ++ 0x0#4) = .ok (.sneReg x y) ∧
    (∀ n : Nibble, n ≠ 0 → decode (0x5#4 ++ x ++ y ++ n) = .error (.unrecognized (0x5#4 ++ x ++ y ++ n)) ∧
      decode (0x9#4 ++ x ++ y ++ n) = .error (.unrecognized (0x9#4 ++ x ++ y ++ n))) ∧
    ∀ s : State, SkipsIf (.seReg x y) s (decide ((readV s x).toNat = (readV s y).toNat)) ∧
      SkipsIf (.sneReg x y) s (decide ((readV s x).toNat ≠ (readV s y).toNat))

/-- R189. -/
def Obligations.JumpWithOffsetAddsV0 : Prop :=
  ∀ nnn : Addr, decode (0xB#4 ++ nnn) = .ok (.jpV0 nnn) ∧
    ∀ s : State, GoesTo (.jpV0 nnn) s (nnn.toNat + (readV s 0).toNat)

/-! ### Arithmetic (42_arithmetic.md) -/

/-- R211. -/
def Obligations.LoadImmediateWritesTheByte : Prop :=
  ∀ (x : RegIdx) (nn : Byte), decode (0x6#4 ++ x ++ nn) = .ok (.ldImm x nn) ∧
    WritesReg (.ldImm x nn) x fun _ => nn

/-- R212. -/
def Obligations.AddImmediateWrapsWithoutFlag : Prop :=
  ∀ (x : RegIdx) (nn : Byte), decode (0x7#4 ++ x ++ nn) = .ok (.addImm x nn) ∧
    WritesReg (.addImm x nn) x fun s => BitVec.ofNat 8 (((readV s x).toNat + nn.toNat) % 256)

/-- R213. -/
def Obligations.CopyRegister : Prop :=
  ∀ x y : RegIdx, decode (0x8#4 ++ x ++ y ++ 0x0#4) = .ok (.ldReg x y) ∧ WritesReg (.ldReg x y) x fun s => readV s y

/-- R214, R215, R216: bit by bit, with no flag. -/
def Obligations.LogicIsBitwiseWithoutFlag : Prop :=
  ∀ x y : RegIdx,
    decode (0x8#4 ++ x ++ y ++ 0x1#4) = .ok (.orReg x y) ∧ decode (0x8#4 ++ x ++ y ++ 0x2#4) = .ok (.andReg x y) ∧
    decode (0x8#4 ++ x ++ y ++ 0x3#4) = .ok (.xorReg x y) ∧
    WritesReg (.orReg x y) x (fun s => BitVec.ofNat 8 ((readV s x).toNat ||| (readV s y).toNat)) ∧
    WritesReg (.andReg x y) x (fun s => BitVec.ofNat 8 ((readV s x).toNat &&& (readV s y).toNat)) ∧
    WritesReg (.xorReg x y) x (fun s => BitVec.ofNat 8 ((readV s x).toNat ^^^ (readV s y).toNat))

/-- R217. -/
def Obligations.AddSetsCarry : Prop :=
  ∀ x y : RegIdx, decode (0x8#4 ++ x ++ y ++ 0x4#4) = .ok (.addReg x y) ∧
    WritesRegAndFlag (.addReg x y) x (fun s => BitVec.ofNat 8 (((readV s x).toNat + (readV s y).toNat) % 256))
      fun s => decide ((readV s x).toNat + (readV s y).toNat > 255)

/-- R218. -/
def Obligations.SubtractSetsNoBorrow : Prop :=
  ∀ x y : RegIdx, decode (0x8#4 ++ x ++ y ++ 0x5#4) = .ok (.subReg x y) ∧
    WritesRegAndFlag (.subReg x y) x
      (fun s => BitVec.ofNat 8 ((256 + (readV s x).toNat - (readV s y).toNat) % 256))
      fun s => decide ((readV s x).toNat ≥ (readV s y).toNat)

/-- R219. -/
def Obligations.ReverseSubtractSetsNoBorrow : Prop :=
  ∀ x y : RegIdx, decode (0x8#4 ++ x ++ y ++ 0x7#4) = .ok (.subn x y) ∧
    WritesRegAndFlag (.subn x y) x
      (fun s => BitVec.ofNat 8 ((256 + (readV s y).toNat - (readV s x).toNat) % 256))
      fun s => decide ((readV s y).toNat ≥ (readV s x).toNat)

/-- R220, R221. -/
def Obligations.ShiftRightSetsTheBitOut : Prop :=
  ∀ x y : RegIdx, decode (0x8#4 ++ x ++ y ++ 0x6#4) = .ok (.shr x y) ∧
    WritesRegAndFlag (.shr x y) x (fun s => BitVec.ofNat 8 (shiftIn s x y / 2))
      fun s => decide (shiftIn s x y % 2 = 1)

/-- R220, R222. -/
def Obligations.ShiftLeftSetsTheBitOut : Prop :=
  ∀ x y : RegIdx, decode (0x8#4 ++ x ++ y ++ 0xE#4) = .ok (.shl x y) ∧
    WritesRegAndFlag (.shl x y) x (fun s => BitVec.ofNat 8 (2 * shiftIn s x y % 256))
      fun s => decide (shiftIn s x y ≥ 128)

/-- R223, for every generator: `Config.rngStep` is opaque. -/
def Obligations.RandomMasksTheGeneratorsByte : Prop :=
  ∀ (x : RegIdx) (nn : Byte), decode (0xC#4 ++ x ++ nn) = .ok (.rnd x nn) ∧
    Advances (.rnd x nn) fun s t =>
      (∀ r, readV t r = if r = x then (Config.rngStep s.rngSeed).1 &&& nn else readV s r) ∧
      t.rngSeed = (Config.rngStep s.rngSeed).2 ∧
      t = { s with V := t.V, rngSeed := t.rngSeed, pc := t.pc } ∧ SameMem s t

/-! ### Memory instructions (43_memory_ops.md) -/

/-- R250. -/
def Obligations.LoadIndexWritesTheAddress : Prop :=
  ∀ nnn : Addr, decode (0xA#4 ++ nnn) = .ok (.ldI nnn) ∧ WritesIndex (.ldI nnn) fun _ => nnn.toNat

/-- R251. -/
def Obligations.AddToIndexWrapsWithoutFlag : Prop :=
  ∀ x : RegIdx, decode (0xF#4 ++ x ++ 0x1E#8) = .ok (.addI x) ∧
    WritesIndex (.addI x) fun s => (s.I.toNat + (readV s x).toNat) % 4096

/-- R252. The memory is in its canonical form, which every step keeps (`StepKeepsTheInvariant`). -/
def Obligations.DecimalStoreWritesThreeDigits : Prop :=
  ∀ x : RegIdx, decode (0xF#4 ++ x ++ 0x33#8) = .ok (.ldB x) ∧
  ∀ s : State, Memory.wf s.params.font s.mem = true →
    (0xFFF < s.I.toNat + 2 → exec (.ldB x) s = .next (raised (.memoryOutOfRange (s.I.toNat + 2)) s)) ∧
    (s.I.toNat + 2 ≤ 0xFFF → 0xFFF < s.pc.toNat + 2 →
      exec (.ldB x) s = .next (raised (.pcOutOfRange (s.pc.toNat + 2)) s)) ∧
    (s.I.toNat + 2 ≤ 0xFFF → s.pc.toNat + 2 ≤ 0xFFF → ∃ t, exec (.ldB x) s = .next t ∧
      (byteAt t s.I.toNat).toNat = (readV s x).toNat / 100 ∧
      (byteAt t (s.I.toNat + 1)).toNat = (readV s x).toNat / 10 % 10 ∧
      (byteAt t (s.I.toNat + 2)).toNat = (readV s x).toNat % 10 ∧
      (∀ a, a < s.I.toNat ∨ s.I.toNat + 2 < a → byteAt t a = byteAt s a) ∧
      t.pc.toNat = s.pc.toNat + 2 ∧ t = { s with mem := t.mem, pc := t.pc })

/-- R253, R254, R256: the block store. The memory is in its canonical form, as above. -/
def Obligations.BlockStoreWritesTheRegisters : Prop :=
  ∀ x : RegIdx, decode (0xF#4 ++ x ++ 0x55#8) = .ok (.store x) ∧
  ∀ s : State, Memory.wf s.params.font s.mem = true →
    (0xFFF < s.I.toNat + x.toNat →
      exec (.store x) s = .next (raised (.memoryOutOfRange (s.I.toNat + x.toNat)) s)) ∧
    (s.I.toNat + x.toNat ≤ 0xFFF → 0xFFF < s.pc.toNat + 2 →
      exec (.store x) s = .next (raised (.pcOutOfRange (s.pc.toNat + 2)) s)) ∧
    (s.I.toNat + x.toNat ≤ 0xFFF → s.pc.toNat + 2 ≤ 0xFFF → ∃ t, exec (.store x) s = .next t ∧
      (∀ r : RegIdx, r.toNat ≤ x.toNat → byteAt t (s.I.toNat + r.toNat) = readV s r) ∧
      (∀ a, a < s.I.toNat ∨ s.I.toNat + x.toNat < a → byteAt t a = byteAt s a) ∧
      t.I.toNat = (if s.loadStoreQuirk then s.I.toNat else (s.I.toNat + (x.toNat + 1)) % 4096) ∧
      t.pc.toNat = s.pc.toNat + 2 ∧ t = { s with mem := t.mem, I := t.I, pc := t.pc })

/-- R253, R255, R256: the block load. -/
def Obligations.BlockLoadReadsTheRegisters : Prop :=
  ∀ x : RegIdx, decode (0xF#4 ++ x ++ 0x65#8) = .ok (.load x) ∧ ∀ s : State,
    (0xFFF < s.I.toNat + x.toNat →
      exec (.load x) s = .next (raised (.memoryOutOfRange (s.I.toNat + x.toNat)) s)) ∧
    (s.I.toNat + x.toNat ≤ 0xFFF → 0xFFF < s.pc.toNat + 2 →
      exec (.load x) s = .next (raised (.pcOutOfRange (s.pc.toNat + 2)) s)) ∧
    (s.I.toNat + x.toNat ≤ 0xFFF → s.pc.toNat + 2 ≤ 0xFFF → ∃ t, exec (.load x) s = .next t ∧
      (∀ r : RegIdx, readV t r =
        if r.toNat ≤ x.toNat then byteAt s (s.I.toNat + r.toNat) else readV s r) ∧
      t.I.toNat = (if s.loadStoreQuirk then s.I.toNat else (s.I.toNat + (x.toNat + 1)) % 4096) ∧
      t.pc.toNat = s.pc.toNat + 2 ∧ t = { s with V := t.V, I := t.I, pc := t.pc } ∧ SameMem s t)

/-! ### Display (44_display.md) -/

/-- R286, with R281. -/
def Obligations.ClearScreenClearsEveryPixel : Prop :=
  decode 0x00E0 = .ok .cls ∧
  Advances .cls fun s t =>
    (∀ p, pixel t.fb p = false) ∧ displayWf t.fb (displayWidth s) (displayHeight s) = true ∧
    t.repaintPending = true ∧ t = { s with fb := t.fb, repaintPending := t.repaintPending, pc := t.pc } ∧ SameMem s t

/-- R280, R285: one toggle, under each edge policy, on a display of any size. -/
def Obligations.ToggleInvertsOnePixel : Prop :=
  ∀ (s : State) (x y : Nat), DisplaySound s.params s.fb →
    (∀ q : Point,
      (s.params.drawEdge = .wrap ∧ q = (x % displayWidth s, y % displayHeight s) ∨
        s.params.drawEdge = .clip ∧ x < displayWidth s ∧ y < displayHeight s ∧ q = (x, y)) →
      (toggle s.params s.fb x y).2 = pixel s.fb q ∧
      ∀ p, pixel (toggle s.params s.fb x y).1 p = if p = q then !pixel s.fb p else pixel s.fb p) ∧
    (s.params.drawEdge = .clip → displayWidth s ≤ x ∨ displayHeight s ≤ y →
      toggle s.params s.fb x y = (s.fb, false)) ∧
    displayWf (toggle s.params s.fb x y).1 (displayWidth s) (displayHeight s) = true

/-- R287, on a display of any size: a pixel is inverted once for every set sprite bit that lands on it; VF, last,
says whether a toggled pixel was set before its toggle: set before the draw, or by an earlier toggle of it. -/
def Obligations.DrawTogglesTheSprite : Prop :=
  ∀ (x y : RegIdx) (n : Nibble), decode (0xD#4 ++ x ++ y ++ n) = .ok (.drw x y n) ∧ ∀ s : State,
    (0 < n.toNat → 0xFFF < s.I.toNat + n.toNat - 1 →
      exec (.drw x y n) s = .next (raised (.memoryOutOfRange (s.I.toNat + n.toNat - 1)) s)) ∧
    (n.toNat = 0 ∨ s.I.toNat + n.toNat - 1 ≤ 0xFFF → 0xFFF < s.pc.toNat + 2 →
      exec (.drw x y n) s = .next (raised (.pcOutOfRange (s.pc.toNat + 2)) s)) ∧
    (n.toNat = 0 ∨ s.I.toNat + n.toNat - 1 ≤ 0xFFF → s.pc.toNat + 2 ≤ 0xFFF →
      ∃ t, exec (.drw x y n) s = .next t ∧
        (DisplaySound s.params s.fb →
          (∀ p, pixel t.fb p = if hits s x y n p % 2 = 1 then !pixel s.fb p else pixel s.fb p) ∧
          ((∃ p, 0 < hits s x y n p ∧ pixel s.fb p = true ∨ 2 ≤ hits s x y n p) → readV t 15 = 1) ∧
          ((∀ p, (0 < hits s x y n p → pixel s.fb p = false) ∧ hits s x y n p < 2) → readV t 15 = 0) ∧
          DisplaySound t.params t.fb) ∧
        (∀ r, r ≠ 15 → readV t r = readV s r) ∧ t.repaintPending = true ∧ t.pc.toNat = s.pc.toNat + 2 ∧
        t = { s with V := t.V, fb := t.fb, repaintPending := t.repaintPending, pc := t.pc } ∧ SameMem s t)

/-- R287's corner case, with R289: the same sprite drawn twice at the same place leaves the display as it was,
and the second draw collides where the sprite leaves a pixel set on a clear display. The coordinate registers are
not VF, which the first draw overwrites. -/
def Obligations.DrawingTwiceErases : Prop :=
  ∀ (x y : RegIdx) (n : Nibble) (s : State), DisplaySound s.params s.fb → x ≠ 15 → y ≠ 15 →
    s.I.toNat + n.toNat ≤ 0x1000 → s.pc.toNat + 4 ≤ 0xFFF →
    ∃ t u, exec (.drw x y n) s = .next t ∧ exec (.drw x y n) t = .next u ∧ u.fb = s.fb ∧
      ((∀ p, pixel s.fb p = false) →
        ((∃ p, 0 < hits s x y n p) → readV u 15 = 1) ∧ ((∀ p, hits s x y n p < 2) → readV t 15 = 0))

/-! ### Timers (45_timer.md) -/

/-- R311. -/
def Obligations.ReadDelayTimer : Prop :=
  ∀ x : RegIdx, decode (0xF#4 ++ x ++ 0x07#8) = .ok (.ldFromDt x) ∧ WritesReg (.ldFromDt x) x fun s => s.DT

/-- R312, R313. -/
def Obligations.SetTheTimers : Prop :=
  ∀ x : RegIdx, decode (0xF#4 ++ x ++ 0x15#8) = .ok (.ldDt x) ∧ decode (0xF#4 ++ x ++ 0x18#8) = .ok (.ldSt x) ∧
    (Advances (.ldDt x) fun s t => t.DT = readV s x ∧ t = { s with DT := t.DT, pc := t.pc } ∧ SameMem s t) ∧
    (Advances (.ldSt x) fun s t => t.ST = readV s x ∧ t = { s with ST := t.ST, pc := t.pc } ∧ SameMem s t)

/-- R310 and the document's timer property quoted in R315: n decrements leave max(0, start - n), and touch
nothing but the timers. -/
def Obligations.TimersCountDownToZero : Prop :=
  ∀ (n : Nat) (s : State),
    ((decTimers^[n] s).DT.toNat = counted n s.DT ∧ (decTimers^[n] s).ST.toNat = counted n s.ST) ∧
    decTimers^[n] s = { s with DT := (decTimers^[n] s).DT, ST := (decTimers^[n] s).ST }

/-! ### Input (46_input.md) -/

/-- R334, R335. -/
def Obligations.KeySkipsReadTheKey : Prop :=
  ∀ x : RegIdx, decode (0xE#4 ++ x ++ 0x9E#8) = .ok (.skp x) ∧ decode (0xE#4 ++ x ++ 0xA1#8) = .ok (.sknp x) ∧
    ∀ s : State,
      (15 < (readV s x).toNat →
        exec (.skp x) s = .next (raised (.keyIndexOutOfRange (readV s x)) s) ∧
        exec (.sknp x) s = .next (raised (.keyIndexOutOfRange (readV s x)) s)) ∧
      (∀ k : Key, (readV s x).toNat = k.toNat →
        SkipsIf (.skp x) s (keyIsDown s k) ∧ SkipsIf (.sknp x) s (!keyIsDown s k))

/-- R336. -/
def Obligations.KeyWaitBegins : Prop :=
  ∀ x : RegIdx, decode (0xF#4 ++ x ++ 0x0A#8) = .ok (.ldKey x) ∧ ∀ s : State,
    (0xFFF < s.pc.toNat + 2 → exec (.ldKey x) s = .next (raised (.pcOutOfRange (s.pc.toNat + 2)) s)) ∧
    (s.pc.toNat + 2 ≤ 0xFFF → ∃ t, exec (.ldKey x) s = .next t ∧ t.halted = true ∧ t.awaitingKey = true ∧
      t.awaitingKeyTarget = some x ∧ t.pc = s.pc ∧
      t = { s with halted := true, awaitingKey := true, awaitingKeyTarget := some x } ∧ SameMem s t)

/-- R332, R341: a key press outside a wait sets its key; inside one it also writes the target, advances by 2
and ends the wait. Whether steps may run after it is the model's own field `stepsEnded` (log 19): on an instance that
is not stopped it is as before; on a stopped one `ExitedIsFinal` says it. -/
def Obligations.KeyDownResolvesTheWait : Prop :=
  ∀ (k : Key) (s : State),
    (s.awaitingKey = false → ∃ t, keyDown (some k) s = .next t ∧
      (∀ j, keyIsDown t j = if j = k then true else keyIsDown s j) ∧ t = { s with key := t.key }) ∧
    (∀ x : RegIdx, s.awaitingKey = true → s.awaitingKeyTarget = some x → s.pc.toNat + 2 ≤ 0xFFF →
      ∃ t, keyDown (some k) s = .next t ∧
        (∀ j, keyIsDown t j = if j = k then true else keyIsDown s j) ∧
        (s.params.keyWaitValue = .keyIndex → (readV t x).toNat = k.toNat) ∧
        (s.params.keyWaitValue = .placeholder → readV t x = s.params.keyWaitPlaceholder) ∧
        (∀ r, r ≠ x → readV t r = readV s r) ∧ t.pc.toNat = s.pc.toNat + 2 ∧
        t = { s with key := t.key, V := t.V, pc := t.pc, halted := false, awaitingKey := false,
                     awaitingKeyTarget := none, stepsEnded := t.stepsEnded } ∧
        (s.stopped = false → t.stepsEnded = s.stepsEnded))

/-- R333, and R330 for unmapped codes. -/
def Obligations.KeyUpReleasesTheKey : Prop :=
  ∀ s : State, (∀ k : Key, (∀ j, keyIsDown (keyUp (some k) s) j = if j = k then false else keyIsDown s j) ∧
      keyUp (some k) s = { s with key := (keyUp (some k) s).key }) ∧
    keyUp none s = s ∧ keyDown none s = .next s

/-! ### Font (47_sprite_font.md) -/

/-- R361. -/
def Obligations.FontAddressIsFiveTimesTheDigit : Prop :=
  ∀ x : RegIdx, decode (0xF#4 ++ x ++ 0x29#8) = .ok (.ldF x) ∧
    WritesIndex (.ldF x) fun s => 5 * (readV s x).toNat

/-! ### Encoding (30_encoding.md) -/

/-- R105: sample words, each from its row's match and fields. -/
def Obligations.SampleWordsDecode : Prop :=
  decode 0x00E0 = .ok .cls ∧ decode 0x1202 = .ok (.jp 0x202) ∧ decode 0x6012 = .ok (.ldImm 0 0x12) ∧
  decode 0x8236 = .ok (.shr 2 3) ∧ decode 0xA123 = .ok (.ldI 0x123) ∧ decode 0xD125 = .ok (.drw 1 2 5) ∧
  decode 0xE7A1 = .ok (.sknp 7) ∧ decode 0xF315 = .ok (.ldDt 3) ∧ decode 0xFA29 = .ok (.ldF 10) ∧
  decode 0xF40A = .ok (.ldKey 4) ∧ decode 0x0123 = .error (.unrecognized 0x0123)

/-- R105: decode and encode are inverse, both ways, on all instructions and all words. -/
def Obligations.DecodeAndEncodeAgree : Prop :=
  ∀ (i : Instr) (op : Word), decode op = .ok i ↔ encode i = op

/-- R105: the decoder accepts exactly the words of the table, and the instruction it gives is of the one row the
word belongs to. -/
def Obligations.DecodeFollowsTheTable : Prop :=
  ∀ op : Word,
    (legalWord op = true ↔ ∃ i, decode op = .ok i) ∧
    (legalWord op = false ↔ decode op = .error (.unrecognized op)) ∧
    (∀ i, decode op = .ok i → ∀ r ∈ opcodeRows, r.hasWord op = true → r = i.row)

/-- R106: the illegal words, class by class. -/
def Obligations.IllegalWordsAreTheListedClasses : Prop :=
  ∀ op : Word, decode op = .error (.unrecognized op) ↔
    let w := op.toNat
    (w ≤ 0x0FFF ∧ w ≠ 0x00E0 ∧ w ≠ 0x00EE) ∨
    (w / 0x1000 = 0x5 ∧ w % 16 ≠ 0) ∨
    (w / 0x1000 = 0x8 ∧ w % 16 ∈ [0x8, 0x9, 0xA, 0xB, 0xC, 0xD, 0xF]) ∨
    (w / 0x1000 = 0x9 ∧ w % 16 ≠ 0) ∨
    (w / 0x1000 = 0xE ∧ w % 256 ∉ [0x9E, 0xA1]) ∨
    (w / 0x1000 = 0xF ∧ w % 256 ∉ [0x07, 0x0A, 0x15, 0x18, 0x1E, 0x29, 0x33, 0x55, 0x65])

/-! ### Fetch, step, cycle, scheduler (20_memory.md, 40_execution_engine.md) -/

/-- R75, R76: the fetch. -/
def Obligations.FetchIsBigEndianAtEvenPc : Prop :=
  ∀ s : State,
    (s.pc.toNat % 2 = 1 → fetch s = .error (.misalignedFetch s.pc)) ∧
    (s.pc.toNat % 2 = 0 → ∃ op, fetch s = .ok op ∧
      op.toNat = 256 * (byteAt s s.pc.toNat).toNat + (byteAt s (s.pc.toNat + 1)).toNat)

/-- R141, R142: a step runs the decoded instruction. What the model's step adds around `exec` is `afterExec`: unless
the instruction raised, the repaint signal is served and the cycle has `left` steps to do. Turns, phases and
`stepsEnded` are the model's own (log 5, log 6, log 19). -/
def Obligations.StepRunsTheDecodedInstruction : Prop :=
  ∀ (s : State) (left : Nat) (i : Instr), CoresTurn s → StepsNext s left → s.halted = false →
    s.stepsEnded = false → s.pc.toNat % 2 = 0 →
    decode (byteAt s s.pc.toNat ++ byteAt s (s.pc.toNat + 1)) = .ok i →
    step s = mapNext (afterExec left) (exec i { s with plan := s.plan.tail }) ∧
    ∀ t : State,
      (t.phase = .exited → afterExec left t = t) ∧
      (t.phase ≠ .exited → afterExec left t =
        { t with surface := if t.repaintPending then t.fb else t.surface, repaintPending := false,
                 phase := .inCycle left })

/-- R76, R77, R106, R371, R373: a step that cannot fetch or decode raises, the fetch's error first. The turns,
phases and `stepsEnded` are the model's own (log 5, log 6, log 19). -/
def Obligations.StepRaisesFetchAndDecodeErrors : Prop :=
  ∀ (s : State) (left : Nat), CoresTurn s → StepsNext s left → s.halted = false → s.stepsEnded = false →
    (s.pc.toNat % 2 = 1 → step s = .next (raised (.misalignedFetch s.pc) { s with plan := s.plan.tail })) ∧
    (s.pc.toNat % 2 = 0 →
      ∀ op : Word, op = byteAt s s.pc.toNat ++ byteAt s (s.pc.toNat + 1) → legalWord op = false →
        step s = .next (raised (.decodeError op) { s with plan := s.plan.tail }))

/-- R141, R144, R339: while halted a step of a cycle is a no-op, and a cycle that begins halted neither steps nor
decrements the timers; once a `key_down` has ended a wait of the stopped instance every step is a no-op too, of a cycle
in progress or of one that begins (log 5, log 6, log 19). -/
def Obligations.HaltedStepsAndCyclesDoNothing : Prop :=
  ∀ s : State, CoresTurn s →
    (s.halted = true ∨ s.stepsEnded = true → ∀ left, s.phase = .inCycle (left + 1) →
      step s = .next { s with phase := .inCycle left, plan := s.plan.tail }) ∧
    (s.halted = true → s.phase = .awaitFrame →
      step s = .next { s with phase := .checkStop, plan := s.plan.tail }) ∧
    (s.halted = false → s.stepsEnded = true → ∀ left, StepsNext s left →
      step s = .next { s with phase := .inCycle left, plan := s.plan.tail })

/-- R144, R147, R310: a cycle's end decrements each timer above zero by one, unless a step of it set `halted` and
the parameter says otherwise; then the loop checks the stop flag, and exits or awaits the next frame. `run`'s first
check finds a stop made before it (log 5, log 6). -/
def Obligations.CycleEndDecrementsTheTimers : Prop :=
  (∀ s : State, CoresTurn s → s.phase = .inCycle 0 → ∃ t, step s = .next t ∧
    (s.halted = false ∨ s.params.timerDecAfterMidcycleHalt = true →
      t.DT.toNat = s.DT.toNat - 1 ∧ t.ST.toNat = s.ST.toNat - 1) ∧
    (s.halted = true → s.params.timerDecAfterMidcycleHalt = false → t.DT = s.DT ∧ t.ST = s.ST) ∧
    t.phase = .checkStop ∧ t = { s with DT := t.DT, ST := t.ST, phase := t.phase, plan := s.plan.tail }) ∧
  (∀ s : State, CoresTurn s →
    (s.phase = .checkStop ∨ s.phase = .constructed → s.stopped = true →
      step s = .next { s with phase := .exited, plan := s.plan.tail }) ∧
    (s.phase = .checkStop → s.stopped = false →
      step s = .next { s with phase := .awaitFrame, plan := s.plan.tail }))

/-- R149: the steps of a tick in progress do not read the stop flag, so a `stop()` inside a tick changes nothing of
what they do. (A `key_down` that ends a wait of the stopped instance does: `ExitedIsFinal`, log 19.) -/
def Obligations.StepIgnoresTheStopFlag : Prop :=
  ∀ s : State, CoresTurn s →
    (s.phase = .awaitFrame ∧ s.halted = false ∨ ∃ left, s.phase = .inCycle (left + 1)) →
    step { s with stopped := true } = mapNext (fun t => { t with stopped := true }) (step s)

/-- R148, R149, R150, R151, R378: at a turn the plan gives to the host, the host's call is made; a turn without a
frame changes nothing; a core that waits for a host that never grants stands still for good. The calls' effects and
replies, one by one; the two the spec has the host never make stop by name (log 7). The plan and whether the host
grants are the model's own (log 6). -/
def Obligations.HostCallsTakeTheirTurn : Prop :=
  ∀ s : State,
    (∀ (rest : List HostMove) (c : HostCall), s.plan = .call c :: rest →
      step s = hostCall c { s with plan := rest }) ∧
    (∀ rest : List HostMove, s.plan = .withholdFrame :: rest → step s = .next { s with plan := rest }) ∧
    (s.plan = [] → s.hostGrants = false → s.phase = .constructed ∨ s.phase = .awaitFrame →
      ∀ n, Host.Core.run Sys2Proof.core n s = .next s) ∧
    (∀ code, hostCall (.keyDown code) s = keyDown code s ∧ hostCall (.keyUp code) s = .next (keyUp code s)) ∧
    hostCall .stop s = .next { s with stopped := true } ∧
    hostCall .isDone s = .next s ∧ hostCall .isPaused s = .next s ∧
    (s.phase = .constructed → hostCall .run s = .next { s with phase := .checkStop }) ∧
    (s.phase = .exited → hostCall .run s = .next s) ∧
    (s.phase ≠ .constructed → s.phase ≠ .exited → hostCall .run s = .fault .secondRun) ∧
    (∀ bytes : List Byte,
      (s.phase = .constructed → hostCall (.loadProgram bytes) s =
        match loadProgram bytes s with
        | .ok t => .next t
        | .error _ => .next s) ∧
      (s.phase ≠ .constructed → hostCall (.loadProgram bytes) s = .fault .loadAfterRun)) ∧
    hostReply .isDone s = .answer s.stopped ∧ hostReply .isPaused s = .answer s.halted ∧
    (∀ c, c = .run ∨ c = .stop ∨ (∃ code, c = .keyDown code ∨ c = .keyUp code) → hostReply c s = .done)

/-- R376, R402, D36: after the loop has exited no step runs again, whatever the host does (log 5, log 6). R339, D36: a
`key_down` in a wait of the stopped instance ends the wait, and no step runs after it, of the tick in progress either:
registers, memory and display are as they are from then on, while the tick completes and its timers may fall (log 19). -/
def Obligations.ExitedIsFinal : Prop :=
  (∀ s t : State, Inv s → s.phase = .exited → step s = .next t →
    t.phase = .exited ∧ t.stopped = true ∧ t.fault = s.fault ∧ t.mem = s.mem ∧ t.fb = s.fb ∧
    t.DT = s.DT ∧ t.ST = s.ST ∧ t.I = s.I ∧ t.stack = s.stack ∧ t.sp = s.sp ∧ t.rngSeed = s.rngSeed ∧
    (s.plan = [] → t = s)) ∧
  (∀ (k : Key) (s : State), Inv s → s.awaitingKey = true → s.stopped = true →
    ∃ t, keyDown (some k) s = .next t ∧ t.halted = false ∧ t.awaitingKey = false ∧ t.stepsEnded = true) ∧
  (∀ s t : State, Inv s → s.stepsEnded = true → step s = .next t →
    t.stepsEnded = true ∧ t.stopped = true ∧ t.halted = s.halted ∧ t.awaitingKey = false ∧ t.V = s.V ∧ t.pc = s.pc ∧
    t.I = s.I ∧ t.stack = s.stack ∧ t.sp = s.sp ∧ t.rngSeed = s.rngSeed ∧ t.mem = s.mem ∧ t.fb = s.fb ∧
    t.surface = s.surface ∧ t.fault = s.fault)

/-- R378, R383, R403. The memory is in its canonical form. -/
def Obligations.LoadProgramImplantsTheBytes : Prop :=
  ∀ (bytes : List Byte) (s : State), Memory.wf s.params.font s.mem = true →
    (bytes.length ≤ 3584 → ∃ t, loadProgram bytes s = .ok t ∧
      (∀ i (h : i < bytes.length), byteAt t (0x200 + i) = bytes[i]) ∧
      (∀ a, a < 0x200 ∨ 0x200 + bytes.length ≤ a → byteAt t a = byteAt s a) ∧
      t = { s with mem := t.mem } ∧ hostReply (.loadProgram bytes) s = .done ∧
      (s.phase = .constructed → hostCall (.loadProgram bytes) s = .next t)) ∧
    (3584 < bytes.length → loadProgram bytes s = .error (.loadCapacityError bytes.length) ∧
      hostReply (.loadProgram bytes) s = .failed (.loadCapacityError bytes.length) ∧
      (s.phase = .constructed → hostCall (.loadProgram bytes) s = .next s))

/-! ### Whole-machine rules -/

/-- R373, R375, with R180, R182, R184, R252 to R255, R287, R334 to R336: every instruction raises the first error
its rule checks for, with no effect but the error's record, and completes wherever there is none. -/
def Obligations.InstructionsRaiseTheirErrors : Prop :=
  ∀ (i : Instr) (s : State),
    (∀ e, errorOf s i = some e → exec i s = .next (raised e s)) ∧
    (errorOf s i = none →
      ∃ t, exec i s = .next t ∧ t.fault = s.fault ∧ t.stopped = s.stopped ∧ t.phase = s.phase)

/-- R35, R43, R71, R73: who writes the stack, the seed and memory. -/
def Obligations.StackSeedAndMemoryWriters : Prop :=
  ∀ (i : Instr) (s t : State), exec i s = .next t →
    ((∀ n, i ≠ .call n) → t.stack = s.stack) ∧
    ((∀ n, i ≠ .call n) → i ≠ .ret → t.sp = s.sp) ∧
    ((∀ x nn, i ≠ .rnd x nn) → t.rngSeed = s.rngSeed) ∧
    ((∀ x, i ≠ .ldB x) → (∀ x, i ≠ .store x) → t.mem = s.mem)

/-- R39, R40, R41, R42, R44, R37: who writes the control fields, the keys and the timers; and that no instruction
writes the fields that are the model's own: the parameters (log 4), the visible surface (log 9), the host's plan and
whether it grants (log 6), and whether steps have ended (log 19). -/
def Obligations.ControlFieldWriters : Prop :=
  ∀ (i : Instr) (s t : State), exec i s = .next t →
    ((∀ x, i ≠ .ldKey x) →
      t.halted = s.halted ∧ t.awaitingKey = s.awaitingKey ∧ t.awaitingKeyTarget = s.awaitingKeyTarget) ∧
    (i ≠ .cls → (∀ x y n, i ≠ .drw x y n) → t.repaintPending = s.repaintPending ∧ t.fb = s.fb) ∧
    ((∀ x, i ≠ .ldDt x) → t.DT = s.DT) ∧ ((∀ x, i ≠ .ldSt x) → t.ST = s.ST) ∧
    t.shiftQuirk = s.shiftQuirk ∧ t.loadStoreQuirk = s.loadStoreQuirk ∧ t.key = s.key ∧
    t.params = s.params ∧ t.surface = s.surface ∧ t.plan = s.plan ∧ t.hostGrants = s.hostGrants ∧
    t.stepsEnded = s.stepsEnded

/-- R50: an instruction that neither sets a flag nor has VF among its destinations leaves VF alone. -/
def Obligations.OnlyFlagWritersTouchVf : Prop :=
  ∀ (i : Instr) (s t : State), canWriteVf i = false → exec i s = .next t → readV t 15 = readV s 15

/-- R184, R182, R190: a call and the return from it come back to the next instruction with the stack as deep. -/
def Obligations.ReturnUndoesCall : Prop :=
  ∀ (nnn : Addr) (s : State), s.sp.val < 16 → s.pc.toNat + 2 ≤ 0xFFF →
    ∃ t u, exec (.call nnn) s = .next t ∧ exec .ret t = .next u ∧ u.pc.toNat = s.pc.toNat + 2 ∧ u.sp = s.sp ∧
      u.V = s.V

/-- R83, R407: a block store into the code at the next pc is what the next fetch reads. -/
def Obligations.NextFetchSeesTheStore : Prop :=
  ∀ (x : RegIdx) (s : State), Memory.wf s.params.font s.mem = true → s.I.toNat = s.pc.toNat + 2 →
    1 ≤ x.toNat → s.I.toNat + x.toNat ≤ 0xFFF → s.pc.toNat % 2 = 0 →
    ∃ t, exec (.store x) s = .next t ∧ fetch t = .ok (readV s 0 ++ readV s 1)

/-- Two memories in the canonical form that read alike are the same data (log 11). -/
def Obligations.CanonicalMemoryIsUnique : Prop :=
  ∀ (font : Config.Font) (m m' : Memory), Memory.wf font m = true → Memory.wf font m' = true →
    (∀ a, readByte font m a = readByte font m' a) → m = m'

/-! ### Reset and invariants (10_state.md R52, R53; 70_reset_and_hazards.md R400) -/

/-- R52, for every setting of the parameters; the reset state is the construction with this hardware's. -/
def Obligations.ResetValues : Prop :=
  (∀ (p : Config.Params) (q l : Bool) (d : Seed), let s := State.construct p q l d
    (∀ r, readV s r = 0) ∧ s.pc.toNat = 0x200 ∧ s.I = 0 ∧ (∀ j < 16, s.stack[j]? = some 0) ∧ s.sp = 0 ∧
    s.DT = 0 ∧ s.ST = 0 ∧
    (∀ (a : Nat) (h : a < 80), byteAt s a = p.font[a]) ∧ (∀ a, 80 ≤ a → byteAt s a = 0) ∧
    s.halted = false ∧ s.awaitingKey = false ∧ s.repaintPending = false ∧ s.stopped = false ∧
    s.awaitingKeyTarget = none ∧ s.fault = none ∧ s.shiftQuirk = q ∧ s.loadStoreQuirk = l ∧ s.rngSeed = d ∧
    (∀ k, keyIsDown s k = false) ∧ (∀ pt, pixel s.fb pt = false) ∧
    displayWf s.fb p.displayW p.displayH = true) ∧
  State.reset = State.construct Config.params Config.shiftQuirk Config.loadStoreQuirk Config.rngSeed0

/-- R53: its invariants hold at reset, and every step keeps them, whether the turn is an instruction's, a host
call's or the timer decrement's; `stopped` never goes back to false. -/
def Obligations.SpecInvariantsAreKept : Prop :=
  SpecInv State.reset ∧
  ∀ s t : State, SpecInv s → step s = .next t → SpecInv t ∧ (s.stopped = true → t.stopped = true)

/-- The model's invariant (log 5, log 9, log 11, log 19, log 20) holds at reset, where there is no wait and no fault, the
loop has not been run, the host has nothing planned and grants what the core waits for (log 6), and no steps have
ended (log 19). -/
def Obligations.ResetMeetsTheInvariant : Prop :=
  Inv State.reset ∧ State.reset.halted = false ∧ State.reset.awaitingKey = false ∧
  State.reset.awaitingKeyTarget = none ∧ State.reset.fault = none ∧ State.reset.stopped = false ∧
  State.reset.phase = .constructed ∧ State.reset.plan = [] ∧ State.reset.hostGrants = true ∧
  State.reset.stepsEnded = false

/-- Every step keeps the model's invariant: canonical memory, the key-wait's fields together, no repaint pending
between steps, the surface up to date, the display's shape, the errors' record, the end
of a stopped instance's steps (log 5, log 9, log 11, log 19, log 20). -/
def Obligations.StepKeepsTheInvariant : Prop := ∀ s t : State, Inv s → step s = .next t → Inv t

/-- From every state with the invariant, a step answers a next state as long as the host keeps its duties: no
instruction and no key event ends in a Lean fault or refusal (log 7, log 8). -/
def Obligations.StepNeverFaults : Prop := ∀ s : State, Inv s → HostDuty s → ∃ t, step s = .next t

/-- R371, R374, R376 over runs: from a state with the invariant whose plan is empty, a fatal error recorded once
stays, and the machine stands still from then on (log 5). -/
def Obligations.FatalErrorEndsTheRun : Prop :=
  ∀ (n : Nat) (s : State), Inv s → s.plan = [] → s.fault ≠ none → Host.Core.run Sys2Proof.core n s = .next s

/-- `withFetchWord`, the model's own (log 14), places an instruction where the next step runs it, from every
state. -/
def Obligations.PlacedWordRunsNext : Prop :=
  ∀ (s : State) (w : Nat) (i : Instr), Memory.wf s.params.font s.mem = true → decodeTableWord 16 w = some i →
    ∃ left, step (s.withFetchWord 16 w) = mapNext (afterExec left) (exec i (s.withFetchWord 16 w))
end

