-- ==== Sys2Proof/Laws/Decode.lean ====
section
/-! SUPPORT. The fields of a word put together from its fields (spec 30_encoding.md R102, R103). -/

namespace Sys2Proof

theorem OpcodeRow.hasWord_of_eq {r : OpcodeRow} {op : Word} (h : op &&& r.mask = r.pattern) :
    r.hasWord op = true := by
  simp [OpcodeRow.hasWord, h]

theorem wellFormed_all (i : Instr) : i.wellFormed = true := by
  cases i <;> simp only [Instr.wellFormed, Instr.fields, List.all_cons, List.all_nil, BitVec.isLt, decide_true,
    Bool.and_true]

theorem encodeNNN_toNat (o : Nibble) (a : Addr) : (encodeNNN o a).toNat = o.toNat * 4096 + a.toNat := by
  have := a.isLt
  rw [encodeNNN, BitVec.toNat_append, ← Nat.shiftLeft_add_eq_or_of_lt a.isLt, Nat.shiftLeft_eq]

theorem encodeXNN_toNat (o : Nibble) (x : RegIdx) (b : Byte) :
    (encodeXNN o x b).toNat = o.toNat * 4096 + x.toNat * 256 + b.toNat := by
  rw [encodeXNN, BitVec.toNat_append, ← Nat.shiftLeft_add_eq_or_of_lt b.isLt, BitVec.toNat_append,
    ← Nat.shiftLeft_add_eq_or_of_lt x.isLt, Nat.shiftLeft_eq, Nat.shiftLeft_eq]
  omega

theorem encodeXYN_toNat (o : Nibble) (x y : RegIdx) (n : Nibble) :
    (encodeXYN o x y n).toNat = o.toNat * 4096 + x.toNat * 256 + y.toNat * 16 + n.toNat := by
  rw [encodeXYN, BitVec.toNat_append, ← Nat.shiftLeft_add_eq_or_of_lt n.isLt, BitVec.toNat_append,
    ← Nat.shiftLeft_add_eq_or_of_lt y.isLt, BitVec.toNat_append, ← Nat.shiftLeft_add_eq_or_of_lt x.isLt,
    Nat.shiftLeft_eq, Nat.shiftLeft_eq, Nat.shiftLeft_eq]
  omega

theorem fieldOp_toNat (w : Word) : (fieldOp w).toNat = w.toNat / 4096 := by
  have := w.isLt
  simp only [fieldOp, BitVec.extractLsb'_toNat, Nat.shiftRight_eq_div_pow]
  omega

theorem fieldX_toNat (w : Word) : (fieldX w).toNat = w.toNat / 256 % 16 := by
  simp [fieldX, BitVec.extractLsb'_toNat, Nat.shiftRight_eq_div_pow]

theorem fieldY_toNat (w : Word) : (fieldY w).toNat = w.toNat / 16 % 16 := by
  simp [fieldY, BitVec.extractLsb'_toNat, Nat.shiftRight_eq_div_pow]

theorem fieldN_toNat (w : Word) : (fieldN w).toNat = w.toNat % 16 := by
  simp [fieldN, BitVec.extractLsb'_toNat]

theorem fieldNN_toNat (w : Word) : (fieldNN w).toNat = w.toNat % 256 := by
  simp [fieldNN, BitVec.extractLsb'_toNat]

theorem fieldNNN_toNat (w : Word) : (fieldNNN w).toNat = w.toNat % 4096 := by
  simp [fieldNNN, BitVec.extractLsb'_toNat]

section fields
variable (o : Nibble) (x y : RegIdx) (n : Nibble) (b : Byte) (a : Addr)

@[simp] theorem fieldOp_encodeNNN : fieldOp (encodeNNN o a) = o := by
  have := a.isLt; apply BitVec.eq_of_toNat_eq; rw [fieldOp_toNat, encodeNNN_toNat]; omega
@[simp] theorem fieldNNN_encodeNNN : fieldNNN (encodeNNN o a) = a := by
  have := a.isLt; apply BitVec.eq_of_toNat_eq; rw [fieldNNN_toNat, encodeNNN_toNat]; omega
@[simp] theorem fieldOp_encodeXNN : fieldOp (encodeXNN o x b) = o := by
  have := x.isLt; have := b.isLt; apply BitVec.eq_of_toNat_eq; rw [fieldOp_toNat, encodeXNN_toNat]; omega
@[simp] theorem fieldX_encodeXNN : fieldX (encodeXNN o x b) = x := by
  have := x.isLt; have := b.isLt; apply BitVec.eq_of_toNat_eq; rw [fieldX_toNat, encodeXNN_toNat]; omega
@[simp] theorem fieldNN_encodeXNN : fieldNN (encodeXNN o x b) = b := by
  have := x.isLt; have := b.isLt; apply BitVec.eq_of_toNat_eq; rw [fieldNN_toNat, encodeXNN_toNat]; omega
@[simp] theorem fieldOp_encodeXYN : fieldOp (encodeXYN o x y n) = o := by
  have := x.isLt; have := y.isLt; have := n.isLt
  apply BitVec.eq_of_toNat_eq; rw [fieldOp_toNat, encodeXYN_toNat]; omega
@[simp] theorem fieldX_encodeXYN : fieldX (encodeXYN o x y n) = x := by
  have := x.isLt; have := y.isLt; have := n.isLt
  apply BitVec.eq_of_toNat_eq; rw [fieldX_toNat, encodeXYN_toNat]; omega
@[simp] theorem fieldY_encodeXYN : fieldY (encodeXYN o x y n) = y := by
  have := x.isLt; have := y.isLt; have := n.isLt
  apply BitVec.eq_of_toNat_eq; rw [fieldY_toNat, encodeXYN_toNat]; omega
@[simp] theorem fieldN_encodeXYN : fieldN (encodeXYN o x y n) = n := by
  have := x.isLt; have := y.isLt; have := n.isLt
  apply BitVec.eq_of_toNat_eq; rw [fieldN_toNat, encodeXYN_toNat]; omega

end fields

/-- A word of format ADDR under the mask of its fixed bits (R105). -/
theorem encodeNNN_row (o : Nibble) (a : Addr) : encodeNNN o a &&& 0xF000 = o ++ 0#12 := by
  rw [encodeNNN, show (0xF000 : Word) = (0xF : Nibble) ++ 0#12 from rfl, BitVec.and_append,
    BitVec.and_zero, show (0xF : Nibble) = BitVec.allOnes 4 from rfl, BitVec.and_allOnes]

/-- A word of format REGIMM under the mask of its fixed bits (R105). -/
theorem encodeXNN_row (o : Nibble) (x : RegIdx) (b : Byte) :
    encodeXNN o x b &&& 0xF000 = o ++ 0#12 := by
  rw [encodeXNN, show (0xF000 : Word) = (0xF : Nibble) ++ 0#4 ++ 0#8 from rfl,
    BitVec.and_append, BitVec.and_append, BitVec.and_zero, BitVec.and_zero,
    show (0xF : Nibble) = BitVec.allOnes 4 from rfl, BitVec.and_allOnes]
  revert o; decide

/-- A word of format REGFN under the mask of its fixed bits (R105). -/
theorem encodeXNN_fnRow (o : Nibble) (x : RegIdx) (b : Byte) :
    encodeXNN o x b &&& 0xF0FF = o ++ 0#4 ++ b := by
  rw [encodeXNN, show (0xF0FF : Word) = (0xF : Nibble) ++ 0#4 ++ (0xFF : Byte) from rfl,
    BitVec.and_append, BitVec.and_append, BitVec.and_zero, show (0xF : Nibble) = BitVec.allOnes 4 from rfl,
    show (0xFF : Byte) = BitVec.allOnes 8 from rfl, BitVec.and_allOnes, BitVec.and_allOnes]

/-- A word of format REGREG under the mask of its fixed bits (R105). -/
theorem encodeXYN_row (o : Nibble) (x y : RegIdx) (n : Nibble) :
    encodeXYN o x y n &&& 0xF00F = o ++ 0#8 ++ n := by
  rw [encodeXYN, show (0xF00F : Word) = (0xF : Nibble) ++ 0#4 ++ 0#4 ++ (0xF : Nibble) from rfl,
    BitVec.and_append, BitVec.and_append, BitVec.and_append, BitVec.and_zero, BitVec.and_zero,
    show (0xF : Nibble) = BitVec.allOnes 4 from rfl, BitVec.and_allOnes, BitVec.and_allOnes]
  revert o n; decide

/-- A word of format SPRITE under the mask of its fixed bits (R105). -/
theorem encodeXYN_spriteRow (o : Nibble) (x y : RegIdx) (n : Nibble) :
    encodeXYN o x y n &&& 0xF000 = o ++ 0#12 := by
  rw [encodeXYN, show (0xF000 : Word) = (0xF : Nibble) ++ 0#4 ++ 0#4 ++ 0#4 from rfl,
    BitVec.and_append, BitVec.and_append, BitVec.and_append, BitVec.and_zero, BitVec.and_zero, BitVec.and_zero,
    show (0xF : Nibble) = BitVec.allOnes 4 from rfl, BitVec.and_allOnes]
  revert o; decide

end Sys2Proof
end

