-- ==== Sys2Proof/Laws/Display.lean ====
section
/-! SUPPORT. The laws of the display: its shape, its pixels, and what a list of toggles does to them. -/

namespace Sys2Proof.Machine

open Sys2Proof.Safety

/-! ### Shape (log 20) -/

theorem displayWf_iff {fb : FrameBuffer} {w h : Nat} :
    displayWf fb w h = true ↔ fb.length = w ∧ ∀ x, (hx : x < fb.length) → fb[x].length = h := by
  simp [displayWf, List.forall_mem_iff_getElem]

theorem displayWf_clear (p : Config.Params) : displayWf (clearDisplay p) p.displayW p.displayH = true := by
  simp [displayWf, clearDisplay]

/-- Flipping a pixel keeps the display's shape. -/
theorem displayWf_flipPixel {fb : FrameBuffer} {w h : Nat} (pt : Point) (hs : displayWf fb w h = true) :
    displayWf (flipPixel fb pt) w h = true := by
  obtain ⟨h1, h2⟩ := displayWf_iff.1 hs
  refine displayWf_iff.2 ⟨by simpa [flipPixel] using h1, fun x hx => ?_⟩
  simp only [flipPixel, List.length_modify] at hx
  simp only [flipPixel, List.getElem_modify]
  split
  · simpa using h2 x hx
  · exact h2 x hx

theorem displayWf_toggle {p : Config.Params} {fb : FrameBuffer} {w h : Nat} (x y : Nat)
    (hs : displayWf fb w h = true) : displayWf (toggle p fb x y).1 w h = true := by
  unfold toggle
  split
  · exact hs
  · exact displayWf_flipPixel _ hs

/-- Toggles keep the display's shape. -/
theorem displayWf_toggleAll {p : Config.Params} {fb : FrameBuffer} {w h : Nat} (l : List (Nat × Nat))
    (hs : displayWf fb w h = true) : displayWf (toggleAll p fb l).1 w h = true := by
  induction l generalizing fb with
  | nil => exact hs
  | cons c l ih => exact ih (displayWf_toggle c.1 c.2 hs)

theorem displaySound_toggleAll {p : Config.Params} {fb : FrameBuffer} (l : List (Nat × Nat))
    (hd : DisplaySound p fb) : DisplaySound p (toggleAll p fb l).1 :=
  ⟨hd.width_pos, hd.height_pos, displayWf_toggleAll l hd.shape⟩

theorem displaySound_clear {p : Config.Params} (hw : 1 ≤ p.displayW) (hh : 1 ≤ p.displayH) :
    DisplaySound p (clearDisplay p) :=
  ⟨hw, hh, displayWf_clear p⟩

/-- Two displays of one shape with the same pixels are the same. -/
theorem display_ext {fb fb' : FrameBuffer} {w h : Nat} (hs : displayWf fb w h = true)
    (hs' : displayWf fb' w h = true) (hp : ∀ q : Point, pixel fb q = pixel fb' q) : fb = fb' := by
  obtain ⟨h1, h2⟩ := displayWf_iff.1 hs
  obtain ⟨h1', h2'⟩ := displayWf_iff.1 hs'
  refine List.ext_getElem (h1.trans h1'.symm) fun x hx hx' => ?_
  refine List.ext_getElem ((h2 x hx).trans (h2' x hx').symm) fun y hy hy' => ?_
  simpa [pixel, List.getD_eq_getElem?_getD, hx, hx', hy, hy'] using hp (x, y)

/-! ### Pixels -/

theorem pixel_clear (p : Config.Params) (q : Point) : pixel (clearDisplay p) q = false := by
  simp only [pixel, clearDisplay, List.getD_eq_getElem?_getD, List.getElem?_replicate]
  split <;> simp [List.getElem?_replicate]
  split <;> rfl

/-- Flipping a pixel of the display inverts it and no other. -/
theorem pixel_flipPixel {fb : FrameBuffer} {w h : Nat} (hs : displayWf fb w h = true) {pt : Point}
    (hx : pt.1 < w) (hy : pt.2 < h) (q : Point) :
    pixel (flipPixel fb pt) q = if q = pt then !pixel fb pt else pixel fb q := by
  obtain ⟨h1, h2⟩ := displayWf_iff.1 hs
  obtain ⟨px, py⟩ := pt
  obtain ⟨qx, qy⟩ := q
  have hx' : px < fb.length := h1.symm ▸ hx
  have hy' : py < fb[px].length := by rw [h2 px hx']; exact hy
  simp only [pixel, flipPixel, List.getD_eq_getElem?_getD, List.getElem?_modify, Prod.mk.injEq]
  by_cases hqx : px = qx
  · subst hqx
    by_cases hqy : py = qy
    · subst hqy
      simp [hx', hy']
    · have : ¬ qy = py := fun h => hqy h.symm
      simp [hx', hqy, this]
  · have : ¬ qx = px := fun h => hqx h.symm
    simp [hqx, this]

/-- The pixel that raw coordinates name is on the display (R280, R285). -/
theorem place_on {p : Config.Params} {fb : FrameBuffer} {x y : Nat} {pt : Point} (hd : DisplaySound p fb)
    (h : place p x y = some pt) : pt.1 < p.displayW ∧ pt.2 < p.displayH := by
  unfold place at h
  split at h
  · cases h; exact ⟨Nat.mod_lt _ hd.width_pos, Nat.mod_lt _ hd.height_pos⟩
  · split at h
    · cases h; assumption
    · cases h

theorem toggle_none {p : Config.Params} {x y : Nat} (fb : FrameBuffer) (h : place p x y = none) :
    toggle p fb x y = (fb, false) := by
  simp [toggle, h]

theorem toggle_some {p : Config.Params} {x y : Nat} {pt : Point} (fb : FrameBuffer)
    (h : place p x y = some pt) : toggle p fb x y = (flipPixel fb pt, pixel fb pt) := by
  simp [toggle, h]

/-! ### A list of toggles -/

/-- The pixels that a list of raw coordinates names, in turn. -/
def placed (p : Config.Params) (l : List (Nat × Nat)) : List Point := l.filterMap fun c => place p c.1 c.2

/-- Everything `toggleAll` does: a pixel is inverted as often as it is named, and the answer is whether a named
pixel was set before, or named again after its own toggle set it. -/
theorem toggleAll_spec {p : Config.Params} (l : List (Nat × Nat)) :
    ∀ fb : FrameBuffer, DisplaySound p fb →
      (∀ q, pixel (toggleAll p fb l).1 q = (pixel fb q ^^ ((placed p l).count q % 2 == 1))) ∧
      ((toggleAll p fb l).2 = true ↔
        ∃ q, 0 < (placed p l).count q ∧ pixel fb q = true ∨ 2 ≤ (placed p l).count q) := by
  induction l with
  | nil => intro fb _; simp [placed, toggleAll]
  | cons c l ih =>
    obtain ⟨x, y⟩ := c
    intro fb hs
    cases hp : place p x y with
    | none =>
      have hl : placed p ((x, y) :: l) = placed p l := by simp [placed, hp]
      rw [hl]
      simpa [toggleAll, toggle_none fb hp] using ih fb hs
    | some pt =>
      obtain ⟨hx, hy⟩ := place_on hs hp
      have hl : placed p ((x, y) :: l) = pt :: placed p l := by simp [placed, hp]
      obtain ⟨h1, h2⟩ := ih (flipPixel fb pt) ⟨hs.width_pos, hs.height_pos, displayWf_flipPixel pt hs.shape⟩
      simp only [toggleAll, toggle_some fb hp, hl, Bool.or_eq_true, h1, h2, pixel_flipPixel hs.shape hx hy,
        List.count_cons]
      refine ⟨fun q => ?_, ?_⟩
      · by_cases hq : q = pt
        · subst hq
          rcases Nat.mod_two_eq_zero_or_one ((placed p l).count q) with h | h <;>
            simp [Nat.add_mod, h]
        · have : ¬ pt = q := fun h => hq h.symm
          simp [hq, this]
      · constructor
        · rintro (h | ⟨q, hq⟩)
          · exact ⟨pt, .inl ⟨by simp, h⟩⟩
          · by_cases hqp : q = pt
            · subst hqp
              refine ⟨q, .inr ?_⟩
              simp only [if_true, beq_self_eq_true] at hq ⊢
              omega
            · have : (pt == q) = false := by simpa using fun h : pt = q => hqp h.symm
              refine ⟨q, ?_⟩
              simpa [hqp, this] using hq
        · rintro ⟨q, hq⟩
          by_cases hqp : q = pt
          · subst hqp
            by_cases hset : pixel fb q = true
            · exact .inl hset
            · refine .inr ⟨q, .inl ⟨?_, by simpa using hset⟩⟩
              simp only [beq_self_eq_true, if_true] at hq
              rcases hq with ⟨-, h⟩ | h
              · exact absurd h hset
              · omega
          · have : (pt == q) = false := by simpa using fun h : pt = q => hqp h.symm
            refine .inr ⟨q, ?_⟩
            simpa [hqp, this] using hq

/-- How often a sprite names a pixel: the number of its set bits whose raw coordinates name it (R287). -/
theorem count_placed_sprite (p : Config.Params) (s : State) (base n x0 y0 : Nat) (q : Point) :
    (placed p (spritePixels s base n x0 y0)).count q =
      ((List.range n).flatMap fun row => (List.range 8).map fun col => (row, col)).countP fun c =>
        (byteAt s (base + c.1)).getLsbD (7 - c.2) && place p (x0 + c.2) (y0 + c.1) == some q := by
  simp only [placed, spritePixels, rowPixels, List.filterMap_flatMap, List.count_flatMap, List.countP_flatMap]
  refine congrArg List.sum (List.map_congr_left fun row _ => ?_)
  simp only [Function.comp, List.filterMap_map, List.count_eq_countP, List.countP_filterMap, List.countP_filter,
    List.countP_map]
  refine List.countP_congr fun col _ => ?_
  cases h : place p (x0 + col) (y0 + row) <;> simp [h, and_comm]

end Sys2Proof.Machine
end

