-- ==== Sys2Proof/Laws/Memory.lean ====
section
/-! SUPPORT. The laws of memory: every memory operation keeps the canonical form; a read gives the byte last
written; a write leaves every other address alone. -/

namespace Sys2Proof.Machine

variable {f : Config.Font}

theorem Memory.wf_cons (a : Nat) (b : Byte) (m : Memory) :
    Memory.wf f ((a, b) :: m) = true ↔
      a < 4096 ∧ b ≠ initialByte f a ∧ (∀ c ∈ m, a < c.1) ∧ Memory.wf f m = true := by
  simp [Memory.wf, and_assoc]

@[simp] theorem readByte_nil (a : Nat) : readByte f [] a = initialByte f a := rfl

/-- An address below every listed one reads as the construction contents. -/
theorem readByte_below {m : Memory} {a : Nat} (h : ∀ c ∈ m, a < c.1) : readByte f m a = initialByte f a := by
  induction m with
  | nil => rfl
  | cons c m ih =>
    have hc := h c (by simp)
    rw [readByte, if_neg (by omega), ih fun d hd => h d (by simp [hd])]

/-- A write lists no address but its own and those already listed. -/
theorem mem_writeByte {m : Memory} {a : Nat} {b : Byte} {c : Host.Cell} (h : c ∈ writeByte f m a b) :
    c.1 = a ∨ c ∈ m := by
  induction m with
  | nil =>
    simp only [writeByte] at h
    split at h <;> simp_all
  | cons d m ih =>
    simp only [writeByte] at h
    split at h
    · split at h
      · exact .inr h
      · rcases List.mem_cons.1 h with rfl | h
        · exact .inl rfl
        · exact .inr h
    · split at h
      · split at h
        · exact .inr (by simp [h])
        · rcases List.mem_cons.1 h with rfl | h
          · exact .inl rfl
          · exact .inr (by simp [h])
      · rcases List.mem_cons.1 h with rfl | h
        · exact .inr (by simp)
        · exact (ih h).imp_right fun h => by simp [h]

/-- A write keeps the canonical form. -/
theorem wf_writeByte {m : Memory} {a : Nat} (b : Byte) (ha : a < 4096) (h : Memory.wf f m = true) :
    Memory.wf f (writeByte f m a b) = true := by
  induction m with
  | nil =>
    simp only [writeByte]
    split
    · rfl
    · simpa [Memory.wf, ha]
  | cons d m ih =>
    obtain ⟨k, c⟩ := d
    obtain ⟨hk, hc, hm, hw⟩ := (Memory.wf_cons k c m).1 h
    simp only [writeByte]
    split
    · next hlt =>
      split
      · exact h
      · next hb =>
        refine (Memory.wf_cons ..).2 ⟨ha, hb, fun e he => ?_, h⟩
        rcases List.mem_cons.1 he with rfl | he
        · exact hlt
        · exact hlt.trans (hm e he)
    · split
      · next heq =>
        subst heq
        split
        · exact hw
        · next hb => exact (Memory.wf_cons ..).2 ⟨ha, hb, hm, hw⟩
      · next hlt hne =>
        refine (Memory.wf_cons ..).2 ⟨hk, hc, fun e he => ?_, ih hw⟩
        rcases mem_writeByte he with rfl | he
        · omega
        · exact hm e he

/-- A read after a write: the byte written at its address, every other address as before. -/
theorem readByte_writeByte {m : Memory} (h : Memory.wf f m = true) (a : Nat) (b : Byte) (a' : Nat) :
    readByte f (writeByte f m a b) a' = if a' = a then b else readByte f m a' := by
  induction m with
  | nil =>
    simp only [writeByte]
    split <;> split <;> simp_all [readByte]
  | cons d m ih =>
    obtain ⟨k, c⟩ := d
    obtain ⟨-, hc, hm, hw⟩ := (Memory.wf_cons k c m).1 h
    simp only [writeByte]
    by_cases hlt : a < k
    · rw [if_pos hlt]
      by_cases hb : b = initialByte f a
      · rw [if_pos hb]
        by_cases ha : a' = a
        · rw [if_pos ha, hb, ha]
          refine readByte_below fun e he => ?_
          rcases List.mem_cons.1 he with rfl | he
          · exact hlt
          · exact hlt.trans (hm e he)
        · rw [if_neg ha]
      · rw [if_neg hb, readByte]
    · rw [if_neg hlt]
      by_cases heq : a = k
      · subst heq
        rw [if_pos rfl]
        by_cases hb : b = initialByte f a
        · rw [if_pos hb, readByte]
          by_cases ha : a' = a
          · rw [if_pos ha, ha, hb, readByte_below hm]
          · rw [if_neg ha, if_neg ha]
        · rw [if_neg hb, readByte, readByte]
          by_cases ha : a' = a
          · rw [if_pos ha, if_pos ha]
          · rw [if_neg ha, if_neg ha, if_neg ha]
      · rw [if_neg heq, readByte, readByte, ih hw]
        by_cases ha : a' = k
        · rw [if_pos ha, if_pos ha, if_neg (by omega)]
        · rw [if_neg ha, if_neg ha]

/-- Storing bytes inside the address space keeps the canonical form. -/
theorem wf_storeBytes {m : Memory} {a : Nat} (bs : List Byte) (ha : a + bs.length ≤ 4096)
    (h : Memory.wf f m = true) : Memory.wf f (storeBytes f m a bs) = true := by
  induction bs generalizing m a with
  | nil => exact h
  | cons b bs ih =>
    simp only [List.length_cons] at ha
    exact ih (by omega) (wf_writeByte b (by omega) h)

/-- Storing bytes changes no address outside them (inside the address space). -/
theorem readByte_storeBytes_of_not_mem {m : Memory} {a : Nat} (bs : List Byte)
    (ha : a + bs.length ≤ 4096) (h : Memory.wf f m = true) {a' : Nat}
    (ho : a' < a ∨ a + bs.length ≤ a') : readByte f (storeBytes f m a bs) a' = readByte f m a' := by
  induction bs generalizing m a with
  | nil => rfl
  | cons b bs ih =>
    simp only [List.length_cons] at ha ho
    rw [storeBytes, ih (by omega) (wf_writeByte b (by omega) h) (by omega), readByte_writeByte h,
      if_neg (by omega)]

/-- Stored bytes read back, the k-th at the k-th address. -/
theorem readByte_storeBytes {m : Memory} {a : Nat} (bs : List Byte) (ha : a + bs.length ≤ 4096)
    (h : Memory.wf f m = true) {k : Nat} (hk : k < bs.length) :
    readByte f (storeBytes f m a bs) (a + k) = bs[k] := by
  induction bs generalizing m a k with
  | nil => simp at hk
  | cons b bs ih =>
    simp only [List.length_cons] at ha hk
    have hw := wf_writeByte (m := m) (a := a) b (by omega) h
    cases k with
    | zero =>
      rw [storeBytes, readByte_storeBytes_of_not_mem bs (by omega) hw (by omega), readByte_writeByte h]
      simp
    | succ k =>
      rw [storeBytes, show a + (k + 1) = a + 1 + k by omega, ih (by omega) hw (by omega)]
      rfl

end Sys2Proof.Machine
end

