-- ==== Sys2Proof/Laws/State.lean ====
section
/-! SUPPORT. One lemma per field per update of the state: what each named update leaves and what it writes. -/

namespace Sys2Proof.Machine

/-! ### `setV` -/

@[simp] theorem State.setV_V (s : State) (x : RegIdx) (b : Byte) : (s.setV x b).V = s.V.set x.toNat b x.isLt := rfl
@[simp] theorem State.setV_pc (s : State) (x : RegIdx) (b : Byte) : (s.setV x b).pc = s.pc := rfl
@[simp] theorem State.setV_I (s : State) (x : RegIdx) (b : Byte) : (s.setV x b).I = s.I := rfl
@[simp] theorem State.setV_stack (s : State) (x : RegIdx) (b : Byte) : (s.setV x b).stack = s.stack := rfl
@[simp] theorem State.setV_sp (s : State) (x : RegIdx) (b : Byte) : (s.setV x b).sp = s.sp := rfl
@[simp] theorem State.setV_DT (s : State) (x : RegIdx) (b : Byte) : (s.setV x b).DT = s.DT := rfl
@[simp] theorem State.setV_ST (s : State) (x : RegIdx) (b : Byte) : (s.setV x b).ST = s.ST := rfl
@[simp] theorem State.setV_mem (s : State) (x : RegIdx) (b : Byte) : (s.setV x b).mem = s.mem := rfl
@[simp] theorem State.setV_halted (s : State) (x : RegIdx) (b : Byte) : (s.setV x b).halted = s.halted := rfl
@[simp] theorem State.setV_awaitingKey (s : State) (x : RegIdx) (b : Byte) : (s.setV x b).awaitingKey = s.awaitingKey := rfl
@[simp] theorem State.setV_awaitingKeyTarget (s : State) (x : RegIdx) (b : Byte) : (s.setV x b).awaitingKeyTarget = s.awaitingKeyTarget := rfl
@[simp] theorem State.setV_repaintPending (s : State) (x : RegIdx) (b : Byte) : (s.setV x b).repaintPending = s.repaintPending := rfl
@[simp] theorem State.setV_shiftQuirk (s : State) (x : RegIdx) (b : Byte) : (s.setV x b).shiftQuirk = s.shiftQuirk := rfl
@[simp] theorem State.setV_loadStoreQuirk (s : State) (x : RegIdx) (b : Byte) : (s.setV x b).loadStoreQuirk = s.loadStoreQuirk := rfl
@[simp] theorem State.setV_rngSeed (s : State) (x : RegIdx) (b : Byte) : (s.setV x b).rngSeed = s.rngSeed := rfl
@[simp] theorem State.setV_key (s : State) (x : RegIdx) (b : Byte) : (s.setV x b).key = s.key := rfl
@[simp] theorem State.setV_stopped (s : State) (x : RegIdx) (b : Byte) : (s.setV x b).stopped = s.stopped := rfl
@[simp] theorem State.setV_fault (s : State) (x : RegIdx) (b : Byte) : (s.setV x b).fault = s.fault := rfl
@[simp] theorem State.setV_fb (s : State) (x : RegIdx) (b : Byte) : (s.setV x b).fb = s.fb := rfl
@[simp] theorem State.setV_surface (s : State) (x : RegIdx) (b : Byte) : (s.setV x b).surface = s.surface := rfl
@[simp] theorem State.setV_params (s : State) (x : RegIdx) (b : Byte) : (s.setV x b).params = s.params := rfl
@[simp] theorem State.setV_phase (s : State) (x : RegIdx) (b : Byte) : (s.setV x b).phase = s.phase := rfl
@[simp] theorem State.setV_plan (s : State) (x : RegIdx) (b : Byte) : (s.setV x b).plan = s.plan := rfl
@[simp] theorem State.setV_hostGrants (s : State) (x : RegIdx) (b : Byte) : (s.setV x b).hostGrants = s.hostGrants := rfl
@[simp] theorem State.setV_stepsEnded (s : State) (x : RegIdx) (b : Byte) : (s.setV x b).stepsEnded = s.stepsEnded := rfl

/-! ### `setI` -/

@[simp] theorem State.setI_V (s : State) (a : Addr) : (s.setI a).V = s.V := rfl
@[simp] theorem State.setI_pc (s : State) (a : Addr) : (s.setI a).pc = s.pc := rfl
@[simp] theorem State.setI_I (s : State) (a : Addr) : (s.setI a).I = a := rfl
@[simp] theorem State.setI_stack (s : State) (a : Addr) : (s.setI a).stack = s.stack := rfl
@[simp] theorem State.setI_sp (s : State) (a : Addr) : (s.setI a).sp = s.sp := rfl
@[simp] theorem State.setI_DT (s : State) (a : Addr) : (s.setI a).DT = s.DT := rfl
@[simp] theorem State.setI_ST (s : State) (a : Addr) : (s.setI a).ST = s.ST := rfl
@[simp] theorem State.setI_mem (s : State) (a : Addr) : (s.setI a).mem = s.mem := rfl
@[simp] theorem State.setI_halted (s : State) (a : Addr) : (s.setI a).halted = s.halted := rfl
@[simp] theorem State.setI_awaitingKey (s : State) (a : Addr) : (s.setI a).awaitingKey = s.awaitingKey := rfl
@[simp] theorem State.setI_awaitingKeyTarget (s : State) (a : Addr) : (s.setI a).awaitingKeyTarget = s.awaitingKeyTarget := rfl
@[simp] theorem State.setI_repaintPending (s : State) (a : Addr) : (s.setI a).repaintPending = s.repaintPending := rfl
@[simp] theorem State.setI_shiftQuirk (s : State) (a : Addr) : (s.setI a).shiftQuirk = s.shiftQuirk := rfl
@[simp] theorem State.setI_loadStoreQuirk (s : State) (a : Addr) : (s.setI a).loadStoreQuirk = s.loadStoreQuirk := rfl
@[simp] theorem State.setI_rngSeed (s : State) (a : Addr) : (s.setI a).rngSeed = s.rngSeed := rfl
@[simp] theorem State.setI_key (s : State) (a : Addr) : (s.setI a).key = s.key := rfl
@[simp] theorem State.setI_stopped (s : State) (a : Addr) : (s.setI a).stopped = s.stopped := rfl
@[simp] theorem State.setI_fault (s : State) (a : Addr) : (s.setI a).fault = s.fault := rfl
@[simp] theorem State.setI_fb (s : State) (a : Addr) : (s.setI a).fb = s.fb := rfl
@[simp] theorem State.setI_surface (s : State) (a : Addr) : (s.setI a).surface = s.surface := rfl
@[simp] theorem State.setI_params (s : State) (a : Addr) : (s.setI a).params = s.params := rfl
@[simp] theorem State.setI_phase (s : State) (a : Addr) : (s.setI a).phase = s.phase := rfl
@[simp] theorem State.setI_plan (s : State) (a : Addr) : (s.setI a).plan = s.plan := rfl
@[simp] theorem State.setI_hostGrants (s : State) (a : Addr) : (s.setI a).hostGrants = s.hostGrants := rfl
@[simp] theorem State.setI_stepsEnded (s : State) (a : Addr) : (s.setI a).stepsEnded = s.stepsEnded := rfl

/-! ### `setDT` -/

@[simp] theorem State.setDT_V (s : State) (b : Byte) : (s.setDT b).V = s.V := rfl
@[simp] theorem State.setDT_pc (s : State) (b : Byte) : (s.setDT b).pc = s.pc := rfl
@[simp] theorem State.setDT_I (s : State) (b : Byte) : (s.setDT b).I = s.I := rfl
@[simp] theorem State.setDT_stack (s : State) (b : Byte) : (s.setDT b).stack = s.stack := rfl
@[simp] theorem State.setDT_sp (s : State) (b : Byte) : (s.setDT b).sp = s.sp := rfl
@[simp] theorem State.setDT_DT (s : State) (b : Byte) : (s.setDT b).DT = b := rfl
@[simp] theorem State.setDT_ST (s : State) (b : Byte) : (s.setDT b).ST = s.ST := rfl
@[simp] theorem State.setDT_mem (s : State) (b : Byte) : (s.setDT b).mem = s.mem := rfl
@[simp] theorem State.setDT_halted (s : State) (b : Byte) : (s.setDT b).halted = s.halted := rfl
@[simp] theorem State.setDT_awaitingKey (s : State) (b : Byte) : (s.setDT b).awaitingKey = s.awaitingKey := rfl
@[simp] theorem State.setDT_awaitingKeyTarget (s : State) (b : Byte) : (s.setDT b).awaitingKeyTarget = s.awaitingKeyTarget := rfl
@[simp] theorem State.setDT_repaintPending (s : State) (b : Byte) : (s.setDT b).repaintPending = s.repaintPending := rfl
@[simp] theorem State.setDT_shiftQuirk (s : State) (b : Byte) : (s.setDT b).shiftQuirk = s.shiftQuirk := rfl
@[simp] theorem State.setDT_loadStoreQuirk (s : State) (b : Byte) : (s.setDT b).loadStoreQuirk = s.loadStoreQuirk := rfl
@[simp] theorem State.setDT_rngSeed (s : State) (b : Byte) : (s.setDT b).rngSeed = s.rngSeed := rfl
@[simp] theorem State.setDT_key (s : State) (b : Byte) : (s.setDT b).key = s.key := rfl
@[simp] theorem State.setDT_stopped (s : State) (b : Byte) : (s.setDT b).stopped = s.stopped := rfl
@[simp] theorem State.setDT_fault (s : State) (b : Byte) : (s.setDT b).fault = s.fault := rfl
@[simp] theorem State.setDT_fb (s : State) (b : Byte) : (s.setDT b).fb = s.fb := rfl
@[simp] theorem State.setDT_surface (s : State) (b : Byte) : (s.setDT b).surface = s.surface := rfl
@[simp] theorem State.setDT_params (s : State) (b : Byte) : (s.setDT b).params = s.params := rfl
@[simp] theorem State.setDT_phase (s : State) (b : Byte) : (s.setDT b).phase = s.phase := rfl
@[simp] theorem State.setDT_plan (s : State) (b : Byte) : (s.setDT b).plan = s.plan := rfl
@[simp] theorem State.setDT_hostGrants (s : State) (b : Byte) : (s.setDT b).hostGrants = s.hostGrants := rfl
@[simp] theorem State.setDT_stepsEnded (s : State) (b : Byte) : (s.setDT b).stepsEnded = s.stepsEnded := rfl

/-! ### `setST` -/

@[simp] theorem State.setST_V (s : State) (b : Byte) : (s.setST b).V = s.V := rfl
@[simp] theorem State.setST_pc (s : State) (b : Byte) : (s.setST b).pc = s.pc := rfl
@[simp] theorem State.setST_I (s : State) (b : Byte) : (s.setST b).I = s.I := rfl
@[simp] theorem State.setST_stack (s : State) (b : Byte) : (s.setST b).stack = s.stack := rfl
@[simp] theorem State.setST_sp (s : State) (b : Byte) : (s.setST b).sp = s.sp := rfl
@[simp] theorem State.setST_DT (s : State) (b : Byte) : (s.setST b).DT = s.DT := rfl
@[simp] theorem State.setST_ST (s : State) (b : Byte) : (s.setST b).ST = b := rfl
@[simp] theorem State.setST_mem (s : State) (b : Byte) : (s.setST b).mem = s.mem := rfl
@[simp] theorem State.setST_halted (s : State) (b : Byte) : (s.setST b).halted = s.halted := rfl
@[simp] theorem State.setST_awaitingKey (s : State) (b : Byte) : (s.setST b).awaitingKey = s.awaitingKey := rfl
@[simp] theorem State.setST_awaitingKeyTarget (s : State) (b : Byte) : (s.setST b).awaitingKeyTarget = s.awaitingKeyTarget := rfl
@[simp] theorem State.setST_repaintPending (s : State) (b : Byte) : (s.setST b).repaintPending = s.repaintPending := rfl
@[simp] theorem State.setST_shiftQuirk (s : State) (b : Byte) : (s.setST b).shiftQuirk = s.shiftQuirk := rfl
@[simp] theorem State.setST_loadStoreQuirk (s : State) (b : Byte) : (s.setST b).loadStoreQuirk = s.loadStoreQuirk := rfl
@[simp] theorem State.setST_rngSeed (s : State) (b : Byte) : (s.setST b).rngSeed = s.rngSeed := rfl
@[simp] theorem State.setST_key (s : State) (b : Byte) : (s.setST b).key = s.key := rfl
@[simp] theorem State.setST_stopped (s : State) (b : Byte) : (s.setST b).stopped = s.stopped := rfl
@[simp] theorem State.setST_fault (s : State) (b : Byte) : (s.setST b).fault = s.fault := rfl
@[simp] theorem State.setST_fb (s : State) (b : Byte) : (s.setST b).fb = s.fb := rfl
@[simp] theorem State.setST_surface (s : State) (b : Byte) : (s.setST b).surface = s.surface := rfl
@[simp] theorem State.setST_params (s : State) (b : Byte) : (s.setST b).params = s.params := rfl
@[simp] theorem State.setST_phase (s : State) (b : Byte) : (s.setST b).phase = s.phase := rfl
@[simp] theorem State.setST_plan (s : State) (b : Byte) : (s.setST b).plan = s.plan := rfl
@[simp] theorem State.setST_hostGrants (s : State) (b : Byte) : (s.setST b).hostGrants = s.hostGrants := rfl
@[simp] theorem State.setST_stepsEnded (s : State) (b : Byte) : (s.setST b).stepsEnded = s.stepsEnded := rfl

/-! ### `setSeed` -/

@[simp] theorem State.setSeed_V (s : State) (r : Seed) : (s.setSeed r).V = s.V := rfl
@[simp] theorem State.setSeed_pc (s : State) (r : Seed) : (s.setSeed r).pc = s.pc := rfl
@[simp] theorem State.setSeed_I (s : State) (r : Seed) : (s.setSeed r).I = s.I := rfl
@[simp] theorem State.setSeed_stack (s : State) (r : Seed) : (s.setSeed r).stack = s.stack := rfl
@[simp] theorem State.setSeed_sp (s : State) (r : Seed) : (s.setSeed r).sp = s.sp := rfl
@[simp] theorem State.setSeed_DT (s : State) (r : Seed) : (s.setSeed r).DT = s.DT := rfl
@[simp] theorem State.setSeed_ST (s : State) (r : Seed) : (s.setSeed r).ST = s.ST := rfl
@[simp] theorem State.setSeed_mem (s : State) (r : Seed) : (s.setSeed r).mem = s.mem := rfl
@[simp] theorem State.setSeed_halted (s : State) (r : Seed) : (s.setSeed r).halted = s.halted := rfl
@[simp] theorem State.setSeed_awaitingKey (s : State) (r : Seed) : (s.setSeed r).awaitingKey = s.awaitingKey := rfl
@[simp] theorem State.setSeed_awaitingKeyTarget (s : State) (r : Seed) : (s.setSeed r).awaitingKeyTarget = s.awaitingKeyTarget := rfl
@[simp] theorem State.setSeed_repaintPending (s : State) (r : Seed) : (s.setSeed r).repaintPending = s.repaintPending := rfl
@[simp] theorem State.setSeed_shiftQuirk (s : State) (r : Seed) : (s.setSeed r).shiftQuirk = s.shiftQuirk := rfl
@[simp] theorem State.setSeed_loadStoreQuirk (s : State) (r : Seed) : (s.setSeed r).loadStoreQuirk = s.loadStoreQuirk := rfl
@[simp] theorem State.setSeed_rngSeed (s : State) (r : Seed) : (s.setSeed r).rngSeed = r := rfl
@[simp] theorem State.setSeed_key (s : State) (r : Seed) : (s.setSeed r).key = s.key := rfl
@[simp] theorem State.setSeed_stopped (s : State) (r : Seed) : (s.setSeed r).stopped = s.stopped := rfl
@[simp] theorem State.setSeed_fault (s : State) (r : Seed) : (s.setSeed r).fault = s.fault := rfl
@[simp] theorem State.setSeed_fb (s : State) (r : Seed) : (s.setSeed r).fb = s.fb := rfl
@[simp] theorem State.setSeed_surface (s : State) (r : Seed) : (s.setSeed r).surface = s.surface := rfl
@[simp] theorem State.setSeed_params (s : State) (r : Seed) : (s.setSeed r).params = s.params := rfl
@[simp] theorem State.setSeed_phase (s : State) (r : Seed) : (s.setSeed r).phase = s.phase := rfl
@[simp] theorem State.setSeed_plan (s : State) (r : Seed) : (s.setSeed r).plan = s.plan := rfl
@[simp] theorem State.setSeed_hostGrants (s : State) (r : Seed) : (s.setSeed r).hostGrants = s.hostGrants := rfl
@[simp] theorem State.setSeed_stepsEnded (s : State) (r : Seed) : (s.setSeed r).stepsEnded = s.stepsEnded := rfl

/-! ### `setMem` -/

@[simp] theorem State.setMem_V (s : State) (m : Memory) : (s.setMem m).V = s.V := rfl
@[simp] theorem State.setMem_pc (s : State) (m : Memory) : (s.setMem m).pc = s.pc := rfl
@[simp] theorem State.setMem_I (s : State) (m : Memory) : (s.setMem m).I = s.I := rfl
@[simp] theorem State.setMem_stack (s : State) (m : Memory) : (s.setMem m).stack = s.stack := rfl
@[simp] theorem State.setMem_sp (s : State) (m : Memory) : (s.setMem m).sp = s.sp := rfl
@[simp] theorem State.setMem_DT (s : State) (m : Memory) : (s.setMem m).DT = s.DT := rfl
@[simp] theorem State.setMem_ST (s : State) (m : Memory) : (s.setMem m).ST = s.ST := rfl
@[simp] theorem State.setMem_mem (s : State) (m : Memory) : (s.setMem m).mem = m := rfl
@[simp] theorem State.setMem_halted (s : State) (m : Memory) : (s.setMem m).halted = s.halted := rfl
@[simp] theorem State.setMem_awaitingKey (s : State) (m : Memory) : (s.setMem m).awaitingKey = s.awaitingKey := rfl
@[simp] theorem State.setMem_awaitingKeyTarget (s : State) (m : Memory) : (s.setMem m).awaitingKeyTarget = s.awaitingKeyTarget := rfl
@[simp] theorem State.setMem_repaintPending (s : State) (m : Memory) : (s.setMem m).repaintPending = s.repaintPending := rfl
@[simp] theorem State.setMem_shiftQuirk (s : State) (m : Memory) : (s.setMem m).shiftQuirk = s.shiftQuirk := rfl
@[simp] theorem State.setMem_loadStoreQuirk (s : State) (m : Memory) : (s.setMem m).loadStoreQuirk = s.loadStoreQuirk := rfl
@[simp] theorem State.setMem_rngSeed (s : State) (m : Memory) : (s.setMem m).rngSeed = s.rngSeed := rfl
@[simp] theorem State.setMem_key (s : State) (m : Memory) : (s.setMem m).key = s.key := rfl
@[simp] theorem State.setMem_stopped (s : State) (m : Memory) : (s.setMem m).stopped = s.stopped := rfl
@[simp] theorem State.setMem_fault (s : State) (m : Memory) : (s.setMem m).fault = s.fault := rfl
@[simp] theorem State.setMem_fb (s : State) (m : Memory) : (s.setMem m).fb = s.fb := rfl
@[simp] theorem State.setMem_surface (s : State) (m : Memory) : (s.setMem m).surface = s.surface := rfl
@[simp] theorem State.setMem_params (s : State) (m : Memory) : (s.setMem m).params = s.params := rfl
@[simp] theorem State.setMem_phase (s : State) (m : Memory) : (s.setMem m).phase = s.phase := rfl
@[simp] theorem State.setMem_plan (s : State) (m : Memory) : (s.setMem m).plan = s.plan := rfl
@[simp] theorem State.setMem_hostGrants (s : State) (m : Memory) : (s.setMem m).hostGrants = s.hostGrants := rfl
@[simp] theorem State.setMem_stepsEnded (s : State) (m : Memory) : (s.setMem m).stepsEnded = s.stepsEnded := rfl

/-! ### `setPc` -/

@[simp] theorem State.setPc_V (s : State) (t : Nat) : (s.setPc t).V = s.V := rfl
@[simp] theorem State.setPc_pc (s : State) (t : Nat) : (s.setPc t).pc = BitVec.ofNat 12 t := rfl
@[simp] theorem State.setPc_I (s : State) (t : Nat) : (s.setPc t).I = s.I := rfl
@[simp] theorem State.setPc_stack (s : State) (t : Nat) : (s.setPc t).stack = s.stack := rfl
@[simp] theorem State.setPc_sp (s : State) (t : Nat) : (s.setPc t).sp = s.sp := rfl
@[simp] theorem State.setPc_DT (s : State) (t : Nat) : (s.setPc t).DT = s.DT := rfl
@[simp] theorem State.setPc_ST (s : State) (t : Nat) : (s.setPc t).ST = s.ST := rfl
@[simp] theorem State.setPc_mem (s : State) (t : Nat) : (s.setPc t).mem = s.mem := rfl
@[simp] theorem State.setPc_halted (s : State) (t : Nat) : (s.setPc t).halted = s.halted := rfl
@[simp] theorem State.setPc_awaitingKey (s : State) (t : Nat) : (s.setPc t).awaitingKey = s.awaitingKey := rfl
@[simp] theorem State.setPc_awaitingKeyTarget (s : State) (t : Nat) : (s.setPc t).awaitingKeyTarget = s.awaitingKeyTarget := rfl
@[simp] theorem State.setPc_repaintPending (s : State) (t : Nat) : (s.setPc t).repaintPending = s.repaintPending := rfl
@[simp] theorem State.setPc_shiftQuirk (s : State) (t : Nat) : (s.setPc t).shiftQuirk = s.shiftQuirk := rfl
@[simp] theorem State.setPc_loadStoreQuirk (s : State) (t : Nat) : (s.setPc t).loadStoreQuirk = s.loadStoreQuirk := rfl
@[simp] theorem State.setPc_rngSeed (s : State) (t : Nat) : (s.setPc t).rngSeed = s.rngSeed := rfl
@[simp] theorem State.setPc_key (s : State) (t : Nat) : (s.setPc t).key = s.key := rfl
@[simp] theorem State.setPc_stopped (s : State) (t : Nat) : (s.setPc t).stopped = s.stopped := rfl
@[simp] theorem State.setPc_fault (s : State) (t : Nat) : (s.setPc t).fault = s.fault := rfl
@[simp] theorem State.setPc_fb (s : State) (t : Nat) : (s.setPc t).fb = s.fb := rfl
@[simp] theorem State.setPc_surface (s : State) (t : Nat) : (s.setPc t).surface = s.surface := rfl
@[simp] theorem State.setPc_params (s : State) (t : Nat) : (s.setPc t).params = s.params := rfl
@[simp] theorem State.setPc_phase (s : State) (t : Nat) : (s.setPc t).phase = s.phase := rfl
@[simp] theorem State.setPc_plan (s : State) (t : Nat) : (s.setPc t).plan = s.plan := rfl
@[simp] theorem State.setPc_hostGrants (s : State) (t : Nat) : (s.setPc t).hostGrants = s.hostGrants := rfl
@[simp] theorem State.setPc_stepsEnded (s : State) (t : Nat) : (s.setPc t).stepsEnded = s.stepsEnded := rfl

/-! ### `clearScreen` -/

@[simp] theorem State.clearScreen_V (s : State) : (s.clearScreen).V = s.V := rfl
@[simp] theorem State.clearScreen_pc (s : State) : (s.clearScreen).pc = s.pc := rfl
@[simp] theorem State.clearScreen_I (s : State) : (s.clearScreen).I = s.I := rfl
@[simp] theorem State.clearScreen_stack (s : State) : (s.clearScreen).stack = s.stack := rfl
@[simp] theorem State.clearScreen_sp (s : State) : (s.clearScreen).sp = s.sp := rfl
@[simp] theorem State.clearScreen_DT (s : State) : (s.clearScreen).DT = s.DT := rfl
@[simp] theorem State.clearScreen_ST (s : State) : (s.clearScreen).ST = s.ST := rfl
@[simp] theorem State.clearScreen_mem (s : State) : (s.clearScreen).mem = s.mem := rfl
@[simp] theorem State.clearScreen_halted (s : State) : (s.clearScreen).halted = s.halted := rfl
@[simp] theorem State.clearScreen_awaitingKey (s : State) : (s.clearScreen).awaitingKey = s.awaitingKey := rfl
@[simp] theorem State.clearScreen_awaitingKeyTarget (s : State) : (s.clearScreen).awaitingKeyTarget = s.awaitingKeyTarget := rfl
@[simp] theorem State.clearScreen_repaintPending (s : State) : (s.clearScreen).repaintPending = true := rfl
@[simp] theorem State.clearScreen_shiftQuirk (s : State) : (s.clearScreen).shiftQuirk = s.shiftQuirk := rfl
@[simp] theorem State.clearScreen_loadStoreQuirk (s : State) : (s.clearScreen).loadStoreQuirk = s.loadStoreQuirk := rfl
@[simp] theorem State.clearScreen_rngSeed (s : State) : (s.clearScreen).rngSeed = s.rngSeed := rfl
@[simp] theorem State.clearScreen_key (s : State) : (s.clearScreen).key = s.key := rfl
@[simp] theorem State.clearScreen_stopped (s : State) : (s.clearScreen).stopped = s.stopped := rfl
@[simp] theorem State.clearScreen_fault (s : State) : (s.clearScreen).fault = s.fault := rfl
@[simp] theorem State.clearScreen_fb (s : State) : (s.clearScreen).fb = clearDisplay s.params := rfl
@[simp] theorem State.clearScreen_surface (s : State) : (s.clearScreen).surface = s.surface := rfl
@[simp] theorem State.clearScreen_params (s : State) : (s.clearScreen).params = s.params := rfl
@[simp] theorem State.clearScreen_phase (s : State) : (s.clearScreen).phase = s.phase := rfl
@[simp] theorem State.clearScreen_plan (s : State) : (s.clearScreen).plan = s.plan := rfl
@[simp] theorem State.clearScreen_hostGrants (s : State) : (s.clearScreen).hostGrants = s.hostGrants := rfl
@[simp] theorem State.clearScreen_stepsEnded (s : State) : (s.clearScreen).stepsEnded = s.stepsEnded := rfl

/-! ### `setDisplay` -/

@[simp] theorem State.setDisplay_V (s : State) (d : FrameBuffer) : (s.setDisplay d).V = s.V := rfl
@[simp] theorem State.setDisplay_pc (s : State) (d : FrameBuffer) : (s.setDisplay d).pc = s.pc := rfl
@[simp] theorem State.setDisplay_I (s : State) (d : FrameBuffer) : (s.setDisplay d).I = s.I := rfl
@[simp] theorem State.setDisplay_stack (s : State) (d : FrameBuffer) : (s.setDisplay d).stack = s.stack := rfl
@[simp] theorem State.setDisplay_sp (s : State) (d : FrameBuffer) : (s.setDisplay d).sp = s.sp := rfl
@[simp] theorem State.setDisplay_DT (s : State) (d : FrameBuffer) : (s.setDisplay d).DT = s.DT := rfl
@[simp] theorem State.setDisplay_ST (s : State) (d : FrameBuffer) : (s.setDisplay d).ST = s.ST := rfl
@[simp] theorem State.setDisplay_mem (s : State) (d : FrameBuffer) : (s.setDisplay d).mem = s.mem := rfl
@[simp] theorem State.setDisplay_halted (s : State) (d : FrameBuffer) : (s.setDisplay d).halted = s.halted := rfl
@[simp] theorem State.setDisplay_awaitingKey (s : State) (d : FrameBuffer) : (s.setDisplay d).awaitingKey = s.awaitingKey := rfl
@[simp] theorem State.setDisplay_awaitingKeyTarget (s : State) (d : FrameBuffer) : (s.setDisplay d).awaitingKeyTarget = s.awaitingKeyTarget := rfl
@[simp] theorem State.setDisplay_repaintPending (s : State) (d : FrameBuffer) : (s.setDisplay d).repaintPending = true := rfl
@[simp] theorem State.setDisplay_shiftQuirk (s : State) (d : FrameBuffer) : (s.setDisplay d).shiftQuirk = s.shiftQuirk := rfl
@[simp] theorem State.setDisplay_loadStoreQuirk (s : State) (d : FrameBuffer) : (s.setDisplay d).loadStoreQuirk = s.loadStoreQuirk := rfl
@[simp] theorem State.setDisplay_rngSeed (s : State) (d : FrameBuffer) : (s.setDisplay d).rngSeed = s.rngSeed := rfl
@[simp] theorem State.setDisplay_key (s : State) (d : FrameBuffer) : (s.setDisplay d).key = s.key := rfl
@[simp] theorem State.setDisplay_stopped (s : State) (d : FrameBuffer) : (s.setDisplay d).stopped = s.stopped := rfl
@[simp] theorem State.setDisplay_fault (s : State) (d : FrameBuffer) : (s.setDisplay d).fault = s.fault := rfl
@[simp] theorem State.setDisplay_fb (s : State) (d : FrameBuffer) : (s.setDisplay d).fb = d := rfl
@[simp] theorem State.setDisplay_surface (s : State) (d : FrameBuffer) : (s.setDisplay d).surface = s.surface := rfl
@[simp] theorem State.setDisplay_params (s : State) (d : FrameBuffer) : (s.setDisplay d).params = s.params := rfl
@[simp] theorem State.setDisplay_phase (s : State) (d : FrameBuffer) : (s.setDisplay d).phase = s.phase := rfl
@[simp] theorem State.setDisplay_plan (s : State) (d : FrameBuffer) : (s.setDisplay d).plan = s.plan := rfl
@[simp] theorem State.setDisplay_hostGrants (s : State) (d : FrameBuffer) : (s.setDisplay d).hostGrants = s.hostGrants := rfl
@[simp] theorem State.setDisplay_stepsEnded (s : State) (d : FrameBuffer) : (s.setDisplay d).stepsEnded = s.stepsEnded := rfl

/-! ### `setFlag` -/

@[simp] theorem State.setFlag_V (s : State) (c : Bool) : (s.setFlag c).V = s.V.set vf.toNat (flagByte c) vf.isLt := rfl
@[simp] theorem State.setFlag_pc (s : State) (c : Bool) : (s.setFlag c).pc = s.pc := rfl
@[simp] theorem State.setFlag_I (s : State) (c : Bool) : (s.setFlag c).I = s.I := rfl
@[simp] theorem State.setFlag_stack (s : State) (c : Bool) : (s.setFlag c).stack = s.stack := rfl
@[simp] theorem State.setFlag_sp (s : State) (c : Bool) : (s.setFlag c).sp = s.sp := rfl
@[simp] theorem State.setFlag_DT (s : State) (c : Bool) : (s.setFlag c).DT = s.DT := rfl
@[simp] theorem State.setFlag_ST (s : State) (c : Bool) : (s.setFlag c).ST = s.ST := rfl
@[simp] theorem State.setFlag_mem (s : State) (c : Bool) : (s.setFlag c).mem = s.mem := rfl
@[simp] theorem State.setFlag_halted (s : State) (c : Bool) : (s.setFlag c).halted = s.halted := rfl
@[simp] theorem State.setFlag_awaitingKey (s : State) (c : Bool) : (s.setFlag c).awaitingKey = s.awaitingKey := rfl
@[simp] theorem State.setFlag_awaitingKeyTarget (s : State) (c : Bool) : (s.setFlag c).awaitingKeyTarget = s.awaitingKeyTarget := rfl
@[simp] theorem State.setFlag_repaintPending (s : State) (c : Bool) : (s.setFlag c).repaintPending = s.repaintPending := rfl
@[simp] theorem State.setFlag_shiftQuirk (s : State) (c : Bool) : (s.setFlag c).shiftQuirk = s.shiftQuirk := rfl
@[simp] theorem State.setFlag_loadStoreQuirk (s : State) (c : Bool) : (s.setFlag c).loadStoreQuirk = s.loadStoreQuirk := rfl
@[simp] theorem State.setFlag_rngSeed (s : State) (c : Bool) : (s.setFlag c).rngSeed = s.rngSeed := rfl
@[simp] theorem State.setFlag_key (s : State) (c : Bool) : (s.setFlag c).key = s.key := rfl
@[simp] theorem State.setFlag_stopped (s : State) (c : Bool) : (s.setFlag c).stopped = s.stopped := rfl
@[simp] theorem State.setFlag_fault (s : State) (c : Bool) : (s.setFlag c).fault = s.fault := rfl
@[simp] theorem State.setFlag_fb (s : State) (c : Bool) : (s.setFlag c).fb = s.fb := rfl
@[simp] theorem State.setFlag_surface (s : State) (c : Bool) : (s.setFlag c).surface = s.surface := rfl
@[simp] theorem State.setFlag_params (s : State) (c : Bool) : (s.setFlag c).params = s.params := rfl
@[simp] theorem State.setFlag_phase (s : State) (c : Bool) : (s.setFlag c).phase = s.phase := rfl
@[simp] theorem State.setFlag_plan (s : State) (c : Bool) : (s.setFlag c).plan = s.plan := rfl
@[simp] theorem State.setFlag_hostGrants (s : State) (c : Bool) : (s.setFlag c).hostGrants = s.hostGrants := rfl
@[simp] theorem State.setFlag_stepsEnded (s : State) (c : Bool) : (s.setFlag c).stepsEnded = s.stepsEnded := rfl

/-! ### `setWithFlag` -/

@[simp] theorem State.setWithFlag_V (s : State) (x : RegIdx) (b : Byte) (c : Bool) : (s.setWithFlag x b c).V = ((s.setV x b).setFlag c).V := rfl
@[simp] theorem State.setWithFlag_pc (s : State) (x : RegIdx) (b : Byte) (c : Bool) : (s.setWithFlag x b c).pc = s.pc := rfl
@[simp] theorem State.setWithFlag_I (s : State) (x : RegIdx) (b : Byte) (c : Bool) : (s.setWithFlag x b c).I = s.I := rfl
@[simp] theorem State.setWithFlag_stack (s : State) (x : RegIdx) (b : Byte) (c : Bool) : (s.setWithFlag x b c).stack = s.stack := rfl
@[simp] theorem State.setWithFlag_sp (s : State) (x : RegIdx) (b : Byte) (c : Bool) : (s.setWithFlag x b c).sp = s.sp := rfl
@[simp] theorem State.setWithFlag_DT (s : State) (x : RegIdx) (b : Byte) (c : Bool) : (s.setWithFlag x b c).DT = s.DT := rfl
@[simp] theorem State.setWithFlag_ST (s : State) (x : RegIdx) (b : Byte) (c : Bool) : (s.setWithFlag x b c).ST = s.ST := rfl
@[simp] theorem State.setWithFlag_mem (s : State) (x : RegIdx) (b : Byte) (c : Bool) : (s.setWithFlag x b c).mem = s.mem := rfl
@[simp] theorem State.setWithFlag_halted (s : State) (x : RegIdx) (b : Byte) (c : Bool) : (s.setWithFlag x b c).halted = s.halted := rfl
@[simp] theorem State.setWithFlag_awaitingKey (s : State) (x : RegIdx) (b : Byte) (c : Bool) : (s.setWithFlag x b c).awaitingKey = s.awaitingKey := rfl
@[simp] theorem State.setWithFlag_awaitingKeyTarget (s : State) (x : RegIdx) (b : Byte) (c : Bool) : (s.setWithFlag x b c).awaitingKeyTarget = s.awaitingKeyTarget := rfl
@[simp] theorem State.setWithFlag_repaintPending (s : State) (x : RegIdx) (b : Byte) (c : Bool) : (s.setWithFlag x b c).repaintPending = s.repaintPending := rfl
@[simp] theorem State.setWithFlag_shiftQuirk (s : State) (x : RegIdx) (b : Byte) (c : Bool) : (s.setWithFlag x b c).shiftQuirk = s.shiftQuirk := rfl
@[simp] theorem State.setWithFlag_loadStoreQuirk (s : State) (x : RegIdx) (b : Byte) (c : Bool) : (s.setWithFlag x b c).loadStoreQuirk = s.loadStoreQuirk := rfl
@[simp] theorem State.setWithFlag_rngSeed (s : State) (x : RegIdx) (b : Byte) (c : Bool) : (s.setWithFlag x b c).rngSeed = s.rngSeed := rfl
@[simp] theorem State.setWithFlag_key (s : State) (x : RegIdx) (b : Byte) (c : Bool) : (s.setWithFlag x b c).key = s.key := rfl
@[simp] theorem State.setWithFlag_stopped (s : State) (x : RegIdx) (b : Byte) (c : Bool) : (s.setWithFlag x b c).stopped = s.stopped := rfl
@[simp] theorem State.setWithFlag_fault (s : State) (x : RegIdx) (b : Byte) (c : Bool) : (s.setWithFlag x b c).fault = s.fault := rfl
@[simp] theorem State.setWithFlag_fb (s : State) (x : RegIdx) (b : Byte) (c : Bool) : (s.setWithFlag x b c).fb = s.fb := rfl
@[simp] theorem State.setWithFlag_surface (s : State) (x : RegIdx) (b : Byte) (c : Bool) : (s.setWithFlag x b c).surface = s.surface := rfl
@[simp] theorem State.setWithFlag_params (s : State) (x : RegIdx) (b : Byte) (c : Bool) : (s.setWithFlag x b c).params = s.params := rfl
@[simp] theorem State.setWithFlag_phase (s : State) (x : RegIdx) (b : Byte) (c : Bool) : (s.setWithFlag x b c).phase = s.phase := rfl
@[simp] theorem State.setWithFlag_plan (s : State) (x : RegIdx) (b : Byte) (c : Bool) : (s.setWithFlag x b c).plan = s.plan := rfl
@[simp] theorem State.setWithFlag_hostGrants (s : State) (x : RegIdx) (b : Byte) (c : Bool) : (s.setWithFlag x b c).hostGrants = s.hostGrants := rfl
@[simp] theorem State.setWithFlag_stepsEnded (s : State) (x : RegIdx) (b : Byte) (c : Bool) : (s.setWithFlag x b c).stepsEnded = s.stepsEnded := rfl

/-! ### `setKey` -/

@[simp] theorem State.setKey_V (s : State) (k : Key) (d : Bool) : (s.setKey k d).V = s.V := rfl
@[simp] theorem State.setKey_pc (s : State) (k : Key) (d : Bool) : (s.setKey k d).pc = s.pc := rfl
@[simp] theorem State.setKey_I (s : State) (k : Key) (d : Bool) : (s.setKey k d).I = s.I := rfl
@[simp] theorem State.setKey_stack (s : State) (k : Key) (d : Bool) : (s.setKey k d).stack = s.stack := rfl
@[simp] theorem State.setKey_sp (s : State) (k : Key) (d : Bool) : (s.setKey k d).sp = s.sp := rfl
@[simp] theorem State.setKey_DT (s : State) (k : Key) (d : Bool) : (s.setKey k d).DT = s.DT := rfl
@[simp] theorem State.setKey_ST (s : State) (k : Key) (d : Bool) : (s.setKey k d).ST = s.ST := rfl
@[simp] theorem State.setKey_mem (s : State) (k : Key) (d : Bool) : (s.setKey k d).mem = s.mem := rfl
@[simp] theorem State.setKey_halted (s : State) (k : Key) (d : Bool) : (s.setKey k d).halted = s.halted := rfl
@[simp] theorem State.setKey_awaitingKey (s : State) (k : Key) (d : Bool) : (s.setKey k d).awaitingKey = s.awaitingKey := rfl
@[simp] theorem State.setKey_awaitingKeyTarget (s : State) (k : Key) (d : Bool) : (s.setKey k d).awaitingKeyTarget = s.awaitingKeyTarget := rfl
@[simp] theorem State.setKey_repaintPending (s : State) (k : Key) (d : Bool) : (s.setKey k d).repaintPending = s.repaintPending := rfl
@[simp] theorem State.setKey_shiftQuirk (s : State) (k : Key) (d : Bool) : (s.setKey k d).shiftQuirk = s.shiftQuirk := rfl
@[simp] theorem State.setKey_loadStoreQuirk (s : State) (k : Key) (d : Bool) : (s.setKey k d).loadStoreQuirk = s.loadStoreQuirk := rfl
@[simp] theorem State.setKey_rngSeed (s : State) (k : Key) (d : Bool) : (s.setKey k d).rngSeed = s.rngSeed := rfl
@[simp] theorem State.setKey_key (s : State) (k : Key) (d : Bool) : (s.setKey k d).key = s.key.set k.toNat d k.isLt := rfl
@[simp] theorem State.setKey_stopped (s : State) (k : Key) (d : Bool) : (s.setKey k d).stopped = s.stopped := rfl
@[simp] theorem State.setKey_fault (s : State) (k : Key) (d : Bool) : (s.setKey k d).fault = s.fault := rfl
@[simp] theorem State.setKey_fb (s : State) (k : Key) (d : Bool) : (s.setKey k d).fb = s.fb := rfl
@[simp] theorem State.setKey_surface (s : State) (k : Key) (d : Bool) : (s.setKey k d).surface = s.surface := rfl
@[simp] theorem State.setKey_params (s : State) (k : Key) (d : Bool) : (s.setKey k d).params = s.params := rfl
@[simp] theorem State.setKey_phase (s : State) (k : Key) (d : Bool) : (s.setKey k d).phase = s.phase := rfl
@[simp] theorem State.setKey_plan (s : State) (k : Key) (d : Bool) : (s.setKey k d).plan = s.plan := rfl
@[simp] theorem State.setKey_hostGrants (s : State) (k : Key) (d : Bool) : (s.setKey k d).hostGrants = s.hostGrants := rfl
@[simp] theorem State.setKey_stepsEnded (s : State) (k : Key) (d : Bool) : (s.setKey k d).stepsEnded = s.stepsEnded := rfl

/-! ### `decTimers` -/

@[simp] theorem decTimers_V (s : State) : (decTimers s).V = s.V := rfl
@[simp] theorem decTimers_pc (s : State) : (decTimers s).pc = s.pc := rfl
@[simp] theorem decTimers_I (s : State) : (decTimers s).I = s.I := rfl
@[simp] theorem decTimers_stack (s : State) : (decTimers s).stack = s.stack := rfl
@[simp] theorem decTimers_sp (s : State) : (decTimers s).sp = s.sp := rfl
@[simp] theorem decTimers_DT (s : State) : (decTimers s).DT = countDown s.DT := rfl
@[simp] theorem decTimers_ST (s : State) : (decTimers s).ST = countDown s.ST := rfl
@[simp] theorem decTimers_mem (s : State) : (decTimers s).mem = s.mem := rfl
@[simp] theorem decTimers_halted (s : State) : (decTimers s).halted = s.halted := rfl
@[simp] theorem decTimers_awaitingKey (s : State) : (decTimers s).awaitingKey = s.awaitingKey := rfl
@[simp] theorem decTimers_awaitingKeyTarget (s : State) : (decTimers s).awaitingKeyTarget = s.awaitingKeyTarget := rfl
@[simp] theorem decTimers_repaintPending (s : State) : (decTimers s).repaintPending = s.repaintPending := rfl
@[simp] theorem decTimers_shiftQuirk (s : State) : (decTimers s).shiftQuirk = s.shiftQuirk := rfl
@[simp] theorem decTimers_loadStoreQuirk (s : State) : (decTimers s).loadStoreQuirk = s.loadStoreQuirk := rfl
@[simp] theorem decTimers_rngSeed (s : State) : (decTimers s).rngSeed = s.rngSeed := rfl
@[simp] theorem decTimers_key (s : State) : (decTimers s).key = s.key := rfl
@[simp] theorem decTimers_stopped (s : State) : (decTimers s).stopped = s.stopped := rfl
@[simp] theorem decTimers_fault (s : State) : (decTimers s).fault = s.fault := rfl
@[simp] theorem decTimers_fb (s : State) : (decTimers s).fb = s.fb := rfl
@[simp] theorem decTimers_surface (s : State) : (decTimers s).surface = s.surface := rfl
@[simp] theorem decTimers_params (s : State) : (decTimers s).params = s.params := rfl
@[simp] theorem decTimers_phase (s : State) : (decTimers s).phase = s.phase := rfl
@[simp] theorem decTimers_plan (s : State) : (decTimers s).plan = s.plan := rfl
@[simp] theorem decTimers_hostGrants (s : State) : (decTimers s).hostGrants = s.hostGrants := rfl
@[simp] theorem decTimers_stepsEnded (s : State) : (decTimers s).stepsEnded = s.stepsEnded := rfl

/-! ### `stopCall` -/

@[simp] theorem stopCall_V (s : State) : (stopCall s).V = s.V := rfl
@[simp] theorem stopCall_pc (s : State) : (stopCall s).pc = s.pc := rfl
@[simp] theorem stopCall_I (s : State) : (stopCall s).I = s.I := rfl
@[simp] theorem stopCall_stack (s : State) : (stopCall s).stack = s.stack := rfl
@[simp] theorem stopCall_sp (s : State) : (stopCall s).sp = s.sp := rfl
@[simp] theorem stopCall_DT (s : State) : (stopCall s).DT = s.DT := rfl
@[simp] theorem stopCall_ST (s : State) : (stopCall s).ST = s.ST := rfl
@[simp] theorem stopCall_mem (s : State) : (stopCall s).mem = s.mem := rfl
@[simp] theorem stopCall_halted (s : State) : (stopCall s).halted = s.halted := rfl
@[simp] theorem stopCall_awaitingKey (s : State) : (stopCall s).awaitingKey = s.awaitingKey := rfl
@[simp] theorem stopCall_awaitingKeyTarget (s : State) : (stopCall s).awaitingKeyTarget = s.awaitingKeyTarget := rfl
@[simp] theorem stopCall_repaintPending (s : State) : (stopCall s).repaintPending = s.repaintPending := rfl
@[simp] theorem stopCall_shiftQuirk (s : State) : (stopCall s).shiftQuirk = s.shiftQuirk := rfl
@[simp] theorem stopCall_loadStoreQuirk (s : State) : (stopCall s).loadStoreQuirk = s.loadStoreQuirk := rfl
@[simp] theorem stopCall_rngSeed (s : State) : (stopCall s).rngSeed = s.rngSeed := rfl
@[simp] theorem stopCall_key (s : State) : (stopCall s).key = s.key := rfl
@[simp] theorem stopCall_stopped (s : State) : (stopCall s).stopped = true := rfl
@[simp] theorem stopCall_fault (s : State) : (stopCall s).fault = s.fault := rfl
@[simp] theorem stopCall_fb (s : State) : (stopCall s).fb = s.fb := rfl
@[simp] theorem stopCall_surface (s : State) : (stopCall s).surface = s.surface := rfl
@[simp] theorem stopCall_params (s : State) : (stopCall s).params = s.params := rfl
@[simp] theorem stopCall_phase (s : State) : (stopCall s).phase = s.phase := rfl
@[simp] theorem stopCall_plan (s : State) : (stopCall s).plan = s.plan := rfl
@[simp] theorem stopCall_hostGrants (s : State) : (stopCall s).hostGrants = s.hostGrants := rfl
@[simp] theorem stopCall_stepsEnded (s : State) : (stopCall s).stepsEnded = s.stepsEnded := rfl

/-! ### `stopCheck` -/

@[simp] theorem stopCheck_V (s : State) : (stopCheck s).V = s.V := rfl
@[simp] theorem stopCheck_pc (s : State) : (stopCheck s).pc = s.pc := rfl
@[simp] theorem stopCheck_I (s : State) : (stopCheck s).I = s.I := rfl
@[simp] theorem stopCheck_stack (s : State) : (stopCheck s).stack = s.stack := rfl
@[simp] theorem stopCheck_sp (s : State) : (stopCheck s).sp = s.sp := rfl
@[simp] theorem stopCheck_DT (s : State) : (stopCheck s).DT = s.DT := rfl
@[simp] theorem stopCheck_ST (s : State) : (stopCheck s).ST = s.ST := rfl
@[simp] theorem stopCheck_mem (s : State) : (stopCheck s).mem = s.mem := rfl
@[simp] theorem stopCheck_halted (s : State) : (stopCheck s).halted = s.halted := rfl
@[simp] theorem stopCheck_awaitingKey (s : State) : (stopCheck s).awaitingKey = s.awaitingKey := rfl
@[simp] theorem stopCheck_awaitingKeyTarget (s : State) : (stopCheck s).awaitingKeyTarget = s.awaitingKeyTarget := rfl
@[simp] theorem stopCheck_repaintPending (s : State) : (stopCheck s).repaintPending = s.repaintPending := rfl
@[simp] theorem stopCheck_shiftQuirk (s : State) : (stopCheck s).shiftQuirk = s.shiftQuirk := rfl
@[simp] theorem stopCheck_loadStoreQuirk (s : State) : (stopCheck s).loadStoreQuirk = s.loadStoreQuirk := rfl
@[simp] theorem stopCheck_rngSeed (s : State) : (stopCheck s).rngSeed = s.rngSeed := rfl
@[simp] theorem stopCheck_key (s : State) : (stopCheck s).key = s.key := rfl
@[simp] theorem stopCheck_stopped (s : State) : (stopCheck s).stopped = s.stopped := rfl
@[simp] theorem stopCheck_fault (s : State) : (stopCheck s).fault = s.fault := rfl
@[simp] theorem stopCheck_fb (s : State) : (stopCheck s).fb = s.fb := rfl
@[simp] theorem stopCheck_surface (s : State) : (stopCheck s).surface = s.surface := rfl
@[simp] theorem stopCheck_params (s : State) : (stopCheck s).params = s.params := rfl
@[simp] theorem stopCheck_phase (s : State) : (stopCheck s).phase = if s.stopped then .exited else .awaitFrame := rfl
@[simp] theorem stopCheck_plan (s : State) : (stopCheck s).plan = s.plan := rfl
@[simp] theorem stopCheck_hostGrants (s : State) : (stopCheck s).hostGrants = s.hostGrants := rfl
@[simp] theorem stopCheck_stepsEnded (s : State) : (stopCheck s).stepsEnded = s.stepsEnded := rfl

/-! ### `beginWait` -/

@[simp] theorem State.beginWait_V (s : State) (x : RegIdx) : (s.beginWait x).V = s.V := rfl
@[simp] theorem State.beginWait_pc (s : State) (x : RegIdx) : (s.beginWait x).pc = s.pc := rfl
@[simp] theorem State.beginWait_I (s : State) (x : RegIdx) : (s.beginWait x).I = s.I := rfl
@[simp] theorem State.beginWait_stack (s : State) (x : RegIdx) : (s.beginWait x).stack = s.stack := rfl
@[simp] theorem State.beginWait_sp (s : State) (x : RegIdx) : (s.beginWait x).sp = s.sp := rfl
@[simp] theorem State.beginWait_DT (s : State) (x : RegIdx) : (s.beginWait x).DT = s.DT := rfl
@[simp] theorem State.beginWait_ST (s : State) (x : RegIdx) : (s.beginWait x).ST = s.ST := rfl
@[simp] theorem State.beginWait_mem (s : State) (x : RegIdx) : (s.beginWait x).mem = s.mem := rfl
@[simp] theorem State.beginWait_halted (s : State) (x : RegIdx) : (s.beginWait x).halted = true := rfl
@[simp] theorem State.beginWait_awaitingKey (s : State) (x : RegIdx) : (s.beginWait x).awaitingKey = true := rfl
@[simp] theorem State.beginWait_awaitingKeyTarget (s : State) (x : RegIdx) : (s.beginWait x).awaitingKeyTarget = some x := rfl
@[simp] theorem State.beginWait_repaintPending (s : State) (x : RegIdx) : (s.beginWait x).repaintPending = s.repaintPending := rfl
@[simp] theorem State.beginWait_shiftQuirk (s : State) (x : RegIdx) : (s.beginWait x).shiftQuirk = s.shiftQuirk := rfl
@[simp] theorem State.beginWait_loadStoreQuirk (s : State) (x : RegIdx) : (s.beginWait x).loadStoreQuirk = s.loadStoreQuirk := rfl
@[simp] theorem State.beginWait_rngSeed (s : State) (x : RegIdx) : (s.beginWait x).rngSeed = s.rngSeed := rfl
@[simp] theorem State.beginWait_key (s : State) (x : RegIdx) : (s.beginWait x).key = s.key := rfl
@[simp] theorem State.beginWait_stopped (s : State) (x : RegIdx) : (s.beginWait x).stopped = s.stopped := rfl
@[simp] theorem State.beginWait_fault (s : State) (x : RegIdx) : (s.beginWait x).fault = s.fault := rfl
@[simp] theorem State.beginWait_fb (s : State) (x : RegIdx) : (s.beginWait x).fb = s.fb := rfl
@[simp] theorem State.beginWait_surface (s : State) (x : RegIdx) : (s.beginWait x).surface = s.surface := rfl
@[simp] theorem State.beginWait_params (s : State) (x : RegIdx) : (s.beginWait x).params = s.params := rfl
@[simp] theorem State.beginWait_phase (s : State) (x : RegIdx) : (s.beginWait x).phase = s.phase := rfl
@[simp] theorem State.beginWait_plan (s : State) (x : RegIdx) : (s.beginWait x).plan = s.plan := rfl
@[simp] theorem State.beginWait_hostGrants (s : State) (x : RegIdx) : (s.beginWait x).hostGrants = s.hostGrants := rfl
@[simp] theorem State.beginWait_stepsEnded (s : State) (x : RegIdx) : (s.beginWait x).stepsEnded = s.stepsEnded := rfl

/-! ### `endWait` -/

@[simp] theorem State.endWait_V (s : State) : (s.endWait).V = s.V := rfl
@[simp] theorem State.endWait_pc (s : State) : (s.endWait).pc = s.pc := rfl
@[simp] theorem State.endWait_I (s : State) : (s.endWait).I = s.I := rfl
@[simp] theorem State.endWait_stack (s : State) : (s.endWait).stack = s.stack := rfl
@[simp] theorem State.endWait_sp (s : State) : (s.endWait).sp = s.sp := rfl
@[simp] theorem State.endWait_DT (s : State) : (s.endWait).DT = s.DT := rfl
@[simp] theorem State.endWait_ST (s : State) : (s.endWait).ST = s.ST := rfl
@[simp] theorem State.endWait_mem (s : State) : (s.endWait).mem = s.mem := rfl
@[simp] theorem State.endWait_halted (s : State) : (s.endWait).halted = false := rfl
@[simp] theorem State.endWait_awaitingKey (s : State) : (s.endWait).awaitingKey = false := rfl
@[simp] theorem State.endWait_awaitingKeyTarget (s : State) : (s.endWait).awaitingKeyTarget = none := rfl
@[simp] theorem State.endWait_repaintPending (s : State) : (s.endWait).repaintPending = s.repaintPending := rfl
@[simp] theorem State.endWait_shiftQuirk (s : State) : (s.endWait).shiftQuirk = s.shiftQuirk := rfl
@[simp] theorem State.endWait_loadStoreQuirk (s : State) : (s.endWait).loadStoreQuirk = s.loadStoreQuirk := rfl
@[simp] theorem State.endWait_rngSeed (s : State) : (s.endWait).rngSeed = s.rngSeed := rfl
@[simp] theorem State.endWait_key (s : State) : (s.endWait).key = s.key := rfl
@[simp] theorem State.endWait_stopped (s : State) : (s.endWait).stopped = s.stopped := rfl
@[simp] theorem State.endWait_fault (s : State) : (s.endWait).fault = s.fault := rfl
@[simp] theorem State.endWait_fb (s : State) : (s.endWait).fb = s.fb := rfl
@[simp] theorem State.endWait_surface (s : State) : (s.endWait).surface = s.surface := rfl
@[simp] theorem State.endWait_params (s : State) : (s.endWait).params = s.params := rfl
@[simp] theorem State.endWait_phase (s : State) : (s.endWait).phase = s.phase := rfl
@[simp] theorem State.endWait_plan (s : State) : (s.endWait).plan = s.plan := rfl
@[simp] theorem State.endWait_hostGrants (s : State) : (s.endWait).hostGrants = s.hostGrants := rfl
@[simp] theorem State.endWait_stepsEnded (s : State) : (s.endWait).stepsEnded = s.stepsEnded := rfl

/-! ### `endSteps` -/

@[simp] theorem State.endSteps_V (s : State) : (s.endSteps).V = s.V := rfl
@[simp] theorem State.endSteps_pc (s : State) : (s.endSteps).pc = s.pc := rfl
@[simp] theorem State.endSteps_I (s : State) : (s.endSteps).I = s.I := rfl
@[simp] theorem State.endSteps_stack (s : State) : (s.endSteps).stack = s.stack := rfl
@[simp] theorem State.endSteps_sp (s : State) : (s.endSteps).sp = s.sp := rfl
@[simp] theorem State.endSteps_DT (s : State) : (s.endSteps).DT = s.DT := rfl
@[simp] theorem State.endSteps_ST (s : State) : (s.endSteps).ST = s.ST := rfl
@[simp] theorem State.endSteps_mem (s : State) : (s.endSteps).mem = s.mem := rfl
@[simp] theorem State.endSteps_halted (s : State) : (s.endSteps).halted = s.halted := rfl
@[simp] theorem State.endSteps_awaitingKey (s : State) : (s.endSteps).awaitingKey = s.awaitingKey := rfl
@[simp] theorem State.endSteps_awaitingKeyTarget (s : State) : (s.endSteps).awaitingKeyTarget = s.awaitingKeyTarget := rfl
@[simp] theorem State.endSteps_repaintPending (s : State) : (s.endSteps).repaintPending = s.repaintPending := rfl
@[simp] theorem State.endSteps_shiftQuirk (s : State) : (s.endSteps).shiftQuirk = s.shiftQuirk := rfl
@[simp] theorem State.endSteps_loadStoreQuirk (s : State) : (s.endSteps).loadStoreQuirk = s.loadStoreQuirk := rfl
@[simp] theorem State.endSteps_rngSeed (s : State) : (s.endSteps).rngSeed = s.rngSeed := rfl
@[simp] theorem State.endSteps_key (s : State) : (s.endSteps).key = s.key := rfl
@[simp] theorem State.endSteps_stopped (s : State) : (s.endSteps).stopped = s.stopped := rfl
@[simp] theorem State.endSteps_fault (s : State) : (s.endSteps).fault = s.fault := rfl
@[simp] theorem State.endSteps_fb (s : State) : (s.endSteps).fb = s.fb := rfl
@[simp] theorem State.endSteps_surface (s : State) : (s.endSteps).surface = s.surface := rfl
@[simp] theorem State.endSteps_params (s : State) : (s.endSteps).params = s.params := rfl
@[simp] theorem State.endSteps_phase (s : State) : (s.endSteps).phase = s.phase := rfl
@[simp] theorem State.endSteps_plan (s : State) : (s.endSteps).plan = s.plan := rfl
@[simp] theorem State.endSteps_hostGrants (s : State) : (s.endSteps).hostGrants = s.hostGrants := rfl
@[simp] theorem State.endSteps_stepsEnded (s : State) : (s.endSteps).stepsEnded = (s.stepsEnded || s.stopped) := rfl

/-! ### `signalRepaint` -/

@[simp] theorem State.signalRepaint_V (s : State) : s.signalRepaint.V = s.V := by
  unfold State.signalRepaint; split <;> simp_all
@[simp] theorem State.signalRepaint_pc (s : State) : s.signalRepaint.pc = s.pc := by
  unfold State.signalRepaint; split <;> simp_all
@[simp] theorem State.signalRepaint_I (s : State) : s.signalRepaint.I = s.I := by
  unfold State.signalRepaint; split <;> simp_all
@[simp] theorem State.signalRepaint_stack (s : State) : s.signalRepaint.stack = s.stack := by
  unfold State.signalRepaint; split <;> simp_all
@[simp] theorem State.signalRepaint_sp (s : State) : s.signalRepaint.sp = s.sp := by
  unfold State.signalRepaint; split <;> simp_all
@[simp] theorem State.signalRepaint_DT (s : State) : s.signalRepaint.DT = s.DT := by
  unfold State.signalRepaint; split <;> simp_all
@[simp] theorem State.signalRepaint_ST (s : State) : s.signalRepaint.ST = s.ST := by
  unfold State.signalRepaint; split <;> simp_all
@[simp] theorem State.signalRepaint_mem (s : State) : s.signalRepaint.mem = s.mem := by
  unfold State.signalRepaint; split <;> simp_all
@[simp] theorem State.signalRepaint_halted (s : State) : s.signalRepaint.halted = s.halted := by
  unfold State.signalRepaint; split <;> simp_all
@[simp] theorem State.signalRepaint_awaitingKey (s : State) : s.signalRepaint.awaitingKey = s.awaitingKey := by
  unfold State.signalRepaint; split <;> simp_all
@[simp] theorem State.signalRepaint_awaitingKeyTarget (s : State) : s.signalRepaint.awaitingKeyTarget = s.awaitingKeyTarget := by
  unfold State.signalRepaint; split <;> simp_all
@[simp] theorem State.signalRepaint_repaintPending (s : State) : s.signalRepaint.repaintPending = false := by
  unfold State.signalRepaint; split <;> simp_all
@[simp] theorem State.signalRepaint_shiftQuirk (s : State) : s.signalRepaint.shiftQuirk = s.shiftQuirk := by
  unfold State.signalRepaint; split <;> simp_all
@[simp] theorem State.signalRepaint_loadStoreQuirk (s : State) : s.signalRepaint.loadStoreQuirk = s.loadStoreQuirk := by
  unfold State.signalRepaint; split <;> simp_all
@[simp] theorem State.signalRepaint_rngSeed (s : State) : s.signalRepaint.rngSeed = s.rngSeed := by
  unfold State.signalRepaint; split <;> simp_all
@[simp] theorem State.signalRepaint_key (s : State) : s.signalRepaint.key = s.key := by
  unfold State.signalRepaint; split <;> simp_all
@[simp] theorem State.signalRepaint_stopped (s : State) : s.signalRepaint.stopped = s.stopped := by
  unfold State.signalRepaint; split <;> simp_all
@[simp] theorem State.signalRepaint_fault (s : State) : s.signalRepaint.fault = s.fault := by
  unfold State.signalRepaint; split <;> simp_all
@[simp] theorem State.signalRepaint_fb (s : State) : s.signalRepaint.fb = s.fb := by
  unfold State.signalRepaint; split <;> simp_all
@[simp] theorem State.signalRepaint_surface (s : State) : s.signalRepaint.surface = if s.repaintPending then s.fb else s.surface := by
  unfold State.signalRepaint; split <;> simp_all
@[simp] theorem State.signalRepaint_params (s : State) : s.signalRepaint.params = s.params := by
  unfold State.signalRepaint; split <;> simp_all
@[simp] theorem State.signalRepaint_phase (s : State) : s.signalRepaint.phase = s.phase := by
  unfold State.signalRepaint; split <;> simp_all
@[simp] theorem State.signalRepaint_plan (s : State) : s.signalRepaint.plan = s.plan := by
  unfold State.signalRepaint; split <;> simp_all
@[simp] theorem State.signalRepaint_hostGrants (s : State) : s.signalRepaint.hostGrants = s.hostGrants := by
  unfold State.signalRepaint; split <;> simp_all
@[simp] theorem State.signalRepaint_stepsEnded (s : State) : s.signalRepaint.stepsEnded = s.stepsEnded := by
  unfold State.signalRepaint; split <;> simp_all

end Sys2Proof.Machine
end

