-- ==== Sys2Proof/Laws/Ops.lean ====
section
/-! SUPPORT. One lemma per shared operation: what it answers, said once, so that no later proof unfolds it. -/

namespace Sys2Proof.Machine

open Sys2Proof.Safety

/-! ### Registers -/

@[simp] theorem readV_setV (s : State) (x : RegIdx) (b : Byte) (r : RegIdx) :
    readV (s.setV x b) r = if r = x then b else readV s r := by
  unfold readV State.setV
  simp only [Vector.getElem_set]
  by_cases h : r = x
  · simp [h]
  · rw [if_neg (fun he => h (BitVec.eq_of_toNat_eq he.symm)), if_neg h]

/-- Reading a register looks at `V` alone. -/
theorem readV_congr {s t : State} (h : t.V = s.V) (r : RegIdx) : readV t r = readV s r := by
  unfold readV; simp [h]

@[simp] theorem readV_setPc (s : State) (t : Nat) (r : RegIdx) : readV (s.setPc t) r = readV s r := rfl
@[simp] theorem readV_setI (s : State) (a : Addr) (r : RegIdx) : readV (s.setI a) r = readV s r := rfl
@[simp] theorem readV_setMem (s : State) (m : Memory) (r : RegIdx) : readV (s.setMem m) r = readV s r := rfl
@[simp] theorem readV_setDT (s : State) (b : Byte) (r : RegIdx) : readV (s.setDT b) r = readV s r := rfl
@[simp] theorem readV_setST (s : State) (b : Byte) (r : RegIdx) : readV (s.setST b) r = readV s r := rfl
@[simp] theorem readV_setSeed (s : State) (d : Seed) (r : RegIdx) : readV (s.setSeed d) r = readV s r := rfl
@[simp] theorem readV_setDisplay (s : State) (d : FrameBuffer) (r : RegIdx) :
    readV (s.setDisplay d) r = readV s r := rfl
@[simp] theorem readV_setKey (s : State) (k : Key) (d : Bool) (r : RegIdx) :
    readV (s.setKey k d) r = readV s r := rfl

@[simp] theorem readV_beginWait (s : State) (x r : RegIdx) : readV (s.beginWait x) r = readV s r := rfl
@[simp] theorem readV_endWait (s : State) (r : RegIdx) : readV s.endWait r = readV s r := rfl
@[simp] theorem readV_endSteps (s : State) (r : RegIdx) : readV s.endSteps r = readV s r := rfl

@[simp] theorem readV_setFlag (s : State) (c : Bool) (r : RegIdx) :
    readV (s.setFlag c) r = if r = vf then flagByte c else readV s r := by
  simp [State.setFlag]

/-- A flag writer's registers: VF holds the flag whatever the destination (R32, R406). -/
@[simp] theorem readV_setWithFlag (s : State) (x : RegIdx) (b : Byte) (c : Bool) (r : RegIdx) :
    readV (s.setWithFlag x b c) r = if r = vf then flagByte c else if r = x then b else readV s r := by
  simp [State.setWithFlag]

theorem readV_loadedRegs (s : State) (x : RegIdx) (base : Nat) (r : RegIdx) :
    (loadedRegs s x base)[r.toNat]'r.isLt =
      if r.toNat ≤ x.toNat then byteAt s (base + r.toNat) else readV s r := by
  simp [loadedRegs, readV]

@[simp] theorem toNat_setPc (s : State) {t : Nat} (h : t ≤ 0xFFF) : (s.setPc t).pc.toNat = t := by
  simp only [State.setPc_pc, BitVec.toNat_ofNat]
  omega

/-! ### The machine's memory -/

/-- Reading memory looks at `mem` and the parameters alone. -/
theorem byteAt_congr {s t : State} (hp : t.params = s.params) (hm : t.mem = s.mem) (a : Nat) :
    byteAt t a = byteAt s a := by
  unfold byteAt; rw [hp, hm]

/-- Storing inside the address space keeps the canonical form. -/
theorem wf_storedAt {s : State} {a : Nat} (bs : List Byte) (ha : a + bs.length ≤ 4096)
    (h : Memory.wf s.params.font s.mem = true) : Memory.wf s.params.font (storedAt s a bs) = true :=
  wf_storeBytes bs ha h

@[simp] theorem byteAt_setV (s : State) (x : RegIdx) (b : Byte) (a : Nat) : byteAt (s.setV x b) a = byteAt s a := rfl
@[simp] theorem byteAt_setFlag (s : State) (c : Bool) (a : Nat) : byteAt (s.setFlag c) a = byteAt s a := rfl
@[simp] theorem byteAt_setPc (s : State) (t a : Nat) : byteAt (s.setPc t) a = byteAt s a := rfl
@[simp] theorem byteAt_setI (s : State) (i : Addr) (a : Nat) : byteAt (s.setI i) a = byteAt s a := rfl
@[simp] theorem byteAt_setDT (s : State) (b : Byte) (a : Nat) : byteAt (s.setDT b) a = byteAt s a := rfl
@[simp] theorem byteAt_setST (s : State) (b : Byte) (a : Nat) : byteAt (s.setST b) a = byteAt s a := rfl
@[simp] theorem byteAt_setSeed (s : State) (r : Seed) (a : Nat) : byteAt (s.setSeed r) a = byteAt s a := rfl
@[simp] theorem byteAt_setDisplay (s : State) (d : FrameBuffer) (a : Nat) : byteAt (s.setDisplay d) a = byteAt s a := rfl
@[simp] theorem byteAt_setKey (s : State) (k : Key) (d : Bool) (a : Nat) : byteAt (s.setKey k d) a = byteAt s a := rfl
@[simp] theorem byteAt_beginWait (s : State) (x : RegIdx) (a : Nat) : byteAt (s.beginWait x) a = byteAt s a := rfl
@[simp] theorem byteAt_endWait (s : State) (a : Nat) : byteAt s.endWait a = byteAt s a := rfl
@[simp] theorem byteAt_endSteps (s : State) (a : Nat) : byteAt s.endSteps a = byteAt s a := rfl

/-- A store changes no address outside its bytes. -/
theorem byteAt_setMem_of_not_mem {s : State} {a : Nat} (bs : List Byte) (ha : a + bs.length ≤ 4096)
    (h : Memory.wf s.params.font s.mem = true) {a' : Nat} (ho : a' < a ∨ a + bs.length ≤ a') :
    byteAt (s.setMem (storedAt s a bs)) a' = byteAt s a' :=
  readByte_storeBytes_of_not_mem bs ha h ho

/-- Stored bytes read back, the k-th at the k-th address. -/
theorem byteAt_setMem {s : State} {a : Nat} (bs : List Byte) (ha : a + bs.length ≤ 4096)
    (h : Memory.wf s.params.font s.mem = true) {k : Nat} (hk : k < bs.length) :
    byteAt (s.setMem (storedAt s a bs)) (a + k) = bs[k] :=
  readByte_storeBytes bs ha h hk

/-! ### Stack -/

theorem push_full {s : State} (a : Addr) (h : s.sp.val = 16) : push a s = none := by
  unfold push; rw [dif_neg (by rw [h]; decide)]

theorem push_room {s : State} (a : Addr) (h : s.sp.val < 16) :
    push a s = some { s with
      stack := s.stack.set s.sp.val a h, sp := ⟨s.sp.val + 1, Nat.succ_lt_succ h⟩ } := by
  unfold push; rw [dif_pos h]

theorem pop_empty {s : State} (h : s.sp.val = 0) : pop s = none := by
  unfold pop; rw [dif_neg]; omega

theorem pop_entry {s : State} (h : 0 < s.sp.val) :
    pop s = some (s.stack[s.sp.val - 1]'(show s.sp.val - 1 < 16 by have := s.sp.isLt; omega),
      { s with sp := ⟨s.sp.val - 1, by omega⟩ }) := by
  unfold pop; rw [dif_pos h]

/-! ### Fatal errors and the end of an instruction -/

theorem takeFatal_eq (e : FatalError) (s : State) : takeFatal e s = .next (raised e s) := rfl

theorem commit_in {t : Nat} (f : State → State) (s : State) (h : t ≤ 0xFFF) :
    commit t f s = .next ((f s).setPc t) := by
  unfold commit; rw [if_neg (Nat.not_lt.2 h)]

theorem commit_out {t : Nat} (f : State → State) (s : State) (h : 0xFFF < t) :
    commit t f s = .next (raised (.pcOutOfRange t) s) := by
  unfold commit; rw [if_pos h]; rfl

/-- All an instruction's end can do: raise on its target, or its effect with the target stored. -/
theorem commit_cases {t : Nat} {f : State → State} {s u : State} (h : commit t f s = .next u) :
    (0xFFF < t ∧ u = raised (.pcOutOfRange t) s) ∨ (t ≤ 0xFFF ∧ u = (f s).setPc t) := by
  by_cases ht : 0xFFF < t
  · rw [commit_out f s ht] at h
    cases h
    exact .inl ⟨ht, rfl⟩
  · rw [commit_in f s (by omega)] at h
    cases h
    exact .inr ⟨by omega, rfl⟩

theorem commit_total (t : Nat) (f : State → State) (s : State) : ∃ u, commit t f s = .next u := by
  by_cases ht : 0xFFF < t
  · exact ⟨_, commit_out f s ht⟩
  · exact ⟨_, commit_in f s (by omega)⟩

theorem advance_in (f : State → State) {s : State} (h : s.pc.toNat + 2 ≤ 0xFFF) :
    advance f s = .next ((f s).setPc (s.pc.toNat + 2)) := commit_in f s h

theorem advance_out (f : State → State) {s : State} (h : 0xFFF < s.pc.toNat + 2) :
    advance f s = .next (raised (.pcOutOfRange (s.pc.toNat + 2)) s) := commit_out f s h

theorem mapNext_next (f : State → State) (s : State) : mapNext f (.next s) = .next (f s) := rfl

/-! ### Operands -/

theorem keyOperand_of_key {b : Byte} {k : Key} (h : b.toNat = k.toNat) : keyOperand b = some k := by
  have hk := k.isLt
  unfold keyOperand
  rw [if_pos (by omega)]
  refine congrArg some (BitVec.eq_of_toNat_eq ?_)
  rw [BitVec.toNat_setWidth, h]
  omega

theorem keyOperand_high {b : Byte} (h : 15 < b.toNat) : keyOperand b = none := by
  unfold keyOperand; rw [if_neg (by omega)]

theorem length_blockRegs (s : State) (x : RegIdx) : (blockRegs s x).length = x.toNat + 1 := by
  have := x.isLt
  simp only [blockRegs, List.length_take, Vector.length_toList]
  omega

theorem getElem_blockRegs (s : State) (x : RegIdx) {k : Nat} (h : k < (blockRegs s x).length)
    (hk : k < 16) : (blockRegs s x)[k] = s.V[k] := by
  simp [blockRegs]

/-! ### Fetch -/

theorem fetch_odd {s : State} (h : s.pc.toNat % 2 = 1) : fetch s = .error (.misalignedFetch s.pc) := by
  unfold fetch
  rw [if_pos]
  rw [← BitVec.testBit_toNat, Nat.testBit_zero]
  simpa using h

/-- A fetch at an even pc is the big-endian pair (R76). -/
theorem fetch_even {s : State} (h : s.pc.toNat % 2 = 0) :
    fetch s = .ok (byteAt s s.pc.toNat ++ byteAt s (s.pc.toNat + 1)) := by
  have hlt := s.pc.isLt
  have hb : s.pc.getLsbD 0 = false := by
    rw [← BitVec.testBit_toNat, Nat.testBit_zero]
    exact decide_eq_false (by omega)
  have h0 : ¬ 4095 < s.pc.toNat := by omega
  have h1 : ¬ 4095 < s.pc.toNat + 1 := by omega
  unfold fetch
  rw [if_neg (by rw [hb]; decide)]
  simp [memRead, Config.maxAddr, h0, h1]

end Sys2Proof.Machine
end

