-- ==== Sys2Proof/Laws/Exec.lean ====
section
/-! SUPPORT. What the meanings that check before they act answer, case by case, and what every instruction
can do at all. -/

namespace Sys2Proof.Machine

open Sys2Proof.Safety

/-! ### Instructions with checks of their own -/

theorem execRet_entry {s : State} (h : 0 < s.sp.val) :
    execRet s = .next (State.setPc (s.stack[s.sp.val - 1]'(show s.sp.val - 1 < 16 by have := s.sp.isLt; omega)).toNat
      { s with sp := ⟨s.sp.val - 1, by omega⟩ }) := by
  simp only [execRet, pop_entry h]

theorem execRet_empty {s : State} (h : s.sp.val = 0) : execRet s = .next (raised (.stackUnderflow s.pc) s) := by
  simp only [execRet, pop_empty h]; rfl

theorem execCall_full {s : State} (nnn : Addr) (h : s.sp.val = 16) :
    execCall nnn s = .next (raised (.stackOverflow s.pc) s) := by
  simp only [execCall, push_full _ h]; rfl

theorem execCall_out {s : State} (nnn : Addr) (h : s.sp.val < 16) (hp : 0xFFF < s.pc.toNat + 2) :
    execCall nnn s = .next (raised (.pcOutOfRange (s.pc.toNat + 2)) s) := by
  simp only [execCall, push_room _ h]; rw [if_pos hp]; rfl

theorem execCall_room {s : State} (nnn : Addr) (h : s.sp.val < 16) (hp : s.pc.toNat + 2 ≤ 0xFFF) :
    execCall nnn s = .next (State.setPc nnn.toNat { s with
      stack := s.stack.set s.sp.val (BitVec.ofNat 12 (s.pc.toNat + 2)) h,
      sp := ⟨s.sp.val + 1, Nat.succ_lt_succ h⟩ }) := by
  simp only [execCall, push_room _ h]; rw [if_neg (Nat.not_lt.2 hp)]

theorem execLdKey_in {s : State} (x : RegIdx) (h : s.pc.toNat + 2 ≤ 0xFFF) :
    execLdKey x s = .next (s.beginWait x) := by
  unfold execLdKey; rw [if_neg (Nat.not_lt.2 h)]

theorem execLdKey_out {s : State} (x : RegIdx) (h : 0xFFF < s.pc.toNat + 2) :
    execLdKey x s = .next (raised (.pcOutOfRange (s.pc.toNat + 2)) s) := by
  unfold execLdKey; rw [if_pos h]; rfl

theorem execLdB_out {s : State} (x : RegIdx) (h : 0xFFF < s.I.toNat + 2) :
    execLdB x s = .next (raised (.memoryOutOfRange (s.I.toNat + 2)) s) := by
  unfold execLdB; exact (if_pos h).trans rfl

theorem execLdB_in {s : State} (x : RegIdx) (h : s.I.toNat + 2 ≤ 0xFFF) :
    execLdB x s = advance (·.setMem (storedAt s s.I.toNat (decimalDigits (readV s x)))) s := by
  unfold execLdB; exact (if_neg (Nat.not_lt.2 h)).trans rfl

theorem execStore_out {s : State} (x : RegIdx) (h : 0xFFF < s.I.toNat + x.toNat) :
    execStore x s = .next (raised (.memoryOutOfRange (s.I.toNat + x.toNat)) s) := by
  unfold execStore; exact (if_pos h).trans rfl

theorem execStore_in {s : State} (x : RegIdx) (h : s.I.toNat + x.toNat ≤ 0xFFF) :
    execStore x s = advance (fun s =>
      (s.setMem (storedAt s s.I.toNat (blockRegs s x))).setI (indexAfterBlock s x)) s := by
  unfold execStore; exact (if_neg (Nat.not_lt.2 h)).trans rfl

theorem execLoad_out {s : State} (x : RegIdx) (h : 0xFFF < s.I.toNat + x.toNat) :
    execLoad x s = .next (raised (.memoryOutOfRange (s.I.toNat + x.toNat)) s) := by
  unfold execLoad; exact (if_pos h).trans rfl

theorem execLoad_in {s : State} (x : RegIdx) (h : s.I.toNat + x.toNat ≤ 0xFFF) :
    execLoad x s = advance (fun s =>
      State.setI (indexAfterBlock s x) { s with V := loadedRegs s x s.I.toNat }) s := by
  unfold execLoad; exact (if_neg (Nat.not_lt.2 h)).trans rfl

theorem execDrw_out {s : State} (x y : RegIdx) {n : Nibble} (hn : 0 < n.toNat)
    (h : 0xFFF < s.I.toNat + n.toNat - 1) :
    execDrw x y n s = .next (raised (.memoryOutOfRange (s.I.toNat + n.toNat - 1)) s) := by
  unfold execDrw; exact (if_pos ⟨hn, h⟩).trans rfl

theorem execDrw_in {s : State} (x y : RegIdx) {n : Nibble}
    (h : n.toNat = 0 ∨ s.I.toNat + n.toNat - 1 ≤ 0xFFF) :
    execDrw x y n s = advance (drawSprite x y n) s := by
  unfold execDrw
  rw [if_neg]
  rintro ⟨h0, h1⟩
  simp only [dataAddr, Config.maxAddr] at h1
  omega

/-- A key press in a wait (R332, R339, R341). -/
theorem keyDown_wait {s : State} {x : RegIdx} (k : Key) (ha : s.awaitingKey = true)
    (ht : s.awaitingKeyTarget = some x) (hp : s.pc.toNat + 2 ≤ 0xFFF) :
    keyDown (some k) s =
      .next (((s.setKey k true).setV x (keyWaitByte s.params k)).endWait.endSteps.setPc (s.pc.toNat + 2)) := by
  simp only [keyDown, ha, if_true, resolve, State.setKey_awaitingKeyTarget, ht]
  exact if_neg (Nat.not_lt.2 hp)

/-- A key press outside a wait (R332). -/
theorem keyDown_noWait {s : State} (k : Key) (ha : s.awaitingKey = false) :
    keyDown (some k) s = .next (s.setKey k true) := by
  simp [keyDown, ha]

theorem keyIsDown_setKey (s : State) (k : Key) (d : Bool) (j : Key) :
    keyIsDown (s.setKey k d) j = if j = k then d else keyIsDown s j := by
  simp only [keyIsDown, State.setKey, Vector.getElem_set]
  by_cases h : j = k
  · simp [h]
  · rw [if_neg fun he => h (BitVec.eq_of_toNat_eq he.symm), if_neg h]

theorem toNat_indexAfterBlock (s : State) (x : RegIdx) :
    (indexAfterBlock s x).toNat =
      if s.loadStoreQuirk then s.I.toNat else (s.I.toNat + (x.toNat + 1)) % 4096 := by
  unfold indexAfterBlock
  split
  · rfl
  · simp

/-! ### What an instruction can do at all -/

/-- The part of the state that no instruction touches unless it raises. -/
structure Kept (s t : State) : Prop where
  phase : t.phase = s.phase
  plan : t.plan = s.plan
  hostGrants : t.hostGrants = s.hostGrants
  stepsEnded : t.stepsEnded = s.stepsEnded
  params : t.params = s.params
  key : t.key = s.key
  stopped : t.stopped = s.stopped
  fault : t.fault = s.fault
  surface : t.surface = s.surface
  shiftQuirk : t.shiftQuirk = s.shiftQuirk
  loadStoreQuirk : t.loadStoreQuirk = s.loadStoreQuirk

/-- The errors an instruction or a step can raise: all but kind 8, which `load_program` answers (R370, R383). -/
def Raisable (e : FatalError) : Prop := ∀ n, e ≠ .loadCapacityError n

/-- The instruction answers a next state: it raised with no effect, or it kept the fields of `Kept`. -/
def Answers (s : State) (o : Result) : Prop :=
  ∃ t, o = .next t ∧ ((∃ e, Raisable e ∧ t = raised e s) ∨ Kept s t)

theorem answers_fatal {s : State} {e : FatalError} (he : Raisable e) : Answers s (takeFatal e s) :=
  ⟨_, rfl, .inl ⟨e, he, rfl⟩⟩

theorem answers_commit {s : State} {n : Nat} {f : State → State} (hk : Kept s (f s)) :
    Answers s (commit n f s) := by
  by_cases h : 0xFFF < n
  · exact ⟨_, commit_out f s h, .inl ⟨_, by rintro _ ⟨⟩, rfl⟩⟩
  · exact ⟨_, commit_in f s (by omega), .inr ⟨hk.phase, hk.plan, hk.hostGrants, hk.stepsEnded, hk.params, hk.key, hk.stopped, hk.fault,
      hk.surface, hk.shiftQuirk, hk.loadStoreQuirk⟩⟩

/-- An instruction never ends in a Lean fault or refusal: it raises a fatal error with no effect, or
keeps the fields of `Kept`. -/
theorem exec_answers (i : Instr) (s : State) : Answers s (exec i s) := by
  have hk : Kept s s := ⟨rfl, rfl, rfl, rfl, rfl, rfl, rfl, rfl, rfl, rfl, rfl⟩
  cases i <;>
    try (refine answers_commit ?_; constructor <;> simp)
  case ret =>
    by_cases h : 0 < s.sp.val
    · exact ⟨_, execRet_entry h, .inr ⟨rfl, rfl, rfl, rfl, rfl, rfl, rfl, rfl, rfl, rfl, rfl⟩⟩
    · exact ⟨_, execRet_empty (by omega), .inl ⟨_, by rintro _ ⟨⟩, rfl⟩⟩
  case call nnn =>
    by_cases h : s.sp.val < 16
    · by_cases hp : 0xFFF < s.pc.toNat + 2
      · exact ⟨_, execCall_out nnn h hp, .inl ⟨_, by rintro _ ⟨⟩, rfl⟩⟩
      · exact ⟨_, execCall_room nnn h (by omega), .inr ⟨rfl, rfl, rfl, rfl, rfl, rfl, rfl, rfl, rfl, rfl, rfl⟩⟩
    · exact ⟨_, execCall_full nnn (by have := s.sp.isLt; omega), .inl ⟨_, by rintro _ ⟨⟩, rfl⟩⟩
  case rnd x nn =>
    unfold exec execRnd advance
    refine answers_commit ?_; constructor <;> simp
  case drw x y n =>
    simp only [exec, execDrw]
    split
    · exact answers_fatal (by rintro _ ⟨⟩)
    · refine answers_commit ?_; constructor <;> simp [drawSprite]
  case skp x =>
    simp only [exec, execSkp]
    split
    · exact answers_fatal (by rintro _ ⟨⟩)
    · exact answers_commit hk
  case sknp x =>
    simp only [exec, execSknp]
    split
    · exact answers_fatal (by rintro _ ⟨⟩)
    · exact answers_commit hk
  case ldKey x =>
    by_cases h : 0xFFF < s.pc.toNat + 2
    · exact ⟨_, execLdKey_out x h, .inl ⟨_, by rintro _ ⟨⟩, rfl⟩⟩
    · exact ⟨_, execLdKey_in x (by omega), .inr ⟨rfl, rfl, rfl, rfl, rfl, rfl, rfl, rfl, rfl, rfl, rfl⟩⟩
  case ldB x =>
    simp only [exec, execLdB]
    split
    · exact answers_fatal (by rintro _ ⟨⟩)
    · refine answers_commit ?_; constructor <;> simp
  case store x =>
    simp only [exec, execStore]
    split
    · exact answers_fatal (by rintro _ ⟨⟩)
    · refine answers_commit ?_; constructor <;> simp
  case load x =>
    simp only [exec, execLoad]
    split
    · exact answers_fatal (by rintro _ ⟨⟩)
    · refine answers_commit ?_; constructor <;> simp

end Sys2Proof.Machine
end

