-- ==== Sys2Proof/Laws/PerInstr.lean ====
section
/-! SUPPORT. Per-instruction family `OwnRow`: every instruction's word has its own table row's fixed bits, and the
row is one of R105's (spec 30_encoding.md R103, R105). -/

namespace Sys2Proof.Laws.OwnRow

/-- The word `encode` gives the instruction belongs to the instruction's row of the opcode table. -/
def Statement (i : Instr) : Prop := i.row.hasWord (encode i) = true ∧ i.row ∈ opcodeRows

theorem cls : Statement .cls := ⟨by decide, by decide⟩
theorem ret : Statement .ret := ⟨by decide, by decide⟩
theorem jp (nnn : Addr) : Statement (.jp nnn) :=
  ⟨OpcodeRow.hasWord_of_eq (encodeNNN_row ..), by simp [opcodeRows, variantsLow, variantsHigh, Instr.row]⟩
theorem call (nnn : Addr) : Statement (.call nnn) :=
  ⟨OpcodeRow.hasWord_of_eq (encodeNNN_row ..), by simp [opcodeRows, variantsLow, variantsHigh, Instr.row]⟩
theorem seImm (x : RegIdx) (nn : Byte) : Statement (.seImm x nn) :=
  ⟨OpcodeRow.hasWord_of_eq (encodeXNN_row ..), by simp [opcodeRows, variantsLow, variantsHigh, Instr.row]⟩
theorem sneImm (x : RegIdx) (nn : Byte) : Statement (.sneImm x nn) :=
  ⟨OpcodeRow.hasWord_of_eq (encodeXNN_row ..), by simp [opcodeRows, variantsLow, variantsHigh, Instr.row]⟩
theorem seReg (x : RegIdx) (y : RegIdx) : Statement (.seReg x y) :=
  ⟨OpcodeRow.hasWord_of_eq (encodeXYN_row ..), by simp [opcodeRows, variantsLow, variantsHigh, Instr.row]⟩
theorem ldImm (x : RegIdx) (nn : Byte) : Statement (.ldImm x nn) :=
  ⟨OpcodeRow.hasWord_of_eq (encodeXNN_row ..), by simp [opcodeRows, variantsLow, variantsHigh, Instr.row]⟩
theorem addImm (x : RegIdx) (nn : Byte) : Statement (.addImm x nn) :=
  ⟨OpcodeRow.hasWord_of_eq (encodeXNN_row ..), by simp [opcodeRows, variantsLow, variantsHigh, Instr.row]⟩
theorem ldReg (x : RegIdx) (y : RegIdx) : Statement (.ldReg x y) :=
  ⟨OpcodeRow.hasWord_of_eq (encodeXYN_row ..), by simp [opcodeRows, variantsLow, variantsHigh, Instr.row]⟩
theorem orReg (x : RegIdx) (y : RegIdx) : Statement (.orReg x y) :=
  ⟨OpcodeRow.hasWord_of_eq (encodeXYN_row ..), by simp [opcodeRows, variantsLow, variantsHigh, Instr.row]⟩
theorem andReg (x : RegIdx) (y : RegIdx) : Statement (.andReg x y) :=
  ⟨OpcodeRow.hasWord_of_eq (encodeXYN_row ..), by simp [opcodeRows, variantsLow, variantsHigh, Instr.row]⟩
theorem xorReg (x : RegIdx) (y : RegIdx) : Statement (.xorReg x y) :=
  ⟨OpcodeRow.hasWord_of_eq (encodeXYN_row ..), by simp [opcodeRows, variantsLow, variantsHigh, Instr.row]⟩
theorem addReg (x : RegIdx) (y : RegIdx) : Statement (.addReg x y) :=
  ⟨OpcodeRow.hasWord_of_eq (encodeXYN_row ..), by simp [opcodeRows, variantsLow, variantsHigh, Instr.row]⟩
theorem subReg (x : RegIdx) (y : RegIdx) : Statement (.subReg x y) :=
  ⟨OpcodeRow.hasWord_of_eq (encodeXYN_row ..), by simp [opcodeRows, variantsLow, variantsHigh, Instr.row]⟩
theorem shr (x : RegIdx) (y : RegIdx) : Statement (.shr x y) :=
  ⟨OpcodeRow.hasWord_of_eq (encodeXYN_row ..), by simp [opcodeRows, variantsLow, variantsHigh, Instr.row]⟩
theorem subn (x : RegIdx) (y : RegIdx) : Statement (.subn x y) :=
  ⟨OpcodeRow.hasWord_of_eq (encodeXYN_row ..), by simp [opcodeRows, variantsLow, variantsHigh, Instr.row]⟩
theorem shl (x : RegIdx) (y : RegIdx) : Statement (.shl x y) :=
  ⟨OpcodeRow.hasWord_of_eq (encodeXYN_row ..), by simp [opcodeRows, variantsLow, variantsHigh, Instr.row]⟩
theorem sneReg (x : RegIdx) (y : RegIdx) : Statement (.sneReg x y) :=
  ⟨OpcodeRow.hasWord_of_eq (encodeXYN_row ..), by simp [opcodeRows, variantsLow, variantsHigh, Instr.row]⟩
theorem ldI (nnn : Addr) : Statement (.ldI nnn) :=
  ⟨OpcodeRow.hasWord_of_eq (encodeNNN_row ..), by simp [opcodeRows, variantsLow, variantsHigh, Instr.row]⟩
theorem jpV0 (nnn : Addr) : Statement (.jpV0 nnn) :=
  ⟨OpcodeRow.hasWord_of_eq (encodeNNN_row ..), by simp [opcodeRows, variantsLow, variantsHigh, Instr.row]⟩
theorem rnd (x : RegIdx) (nn : Byte) : Statement (.rnd x nn) :=
  ⟨OpcodeRow.hasWord_of_eq (encodeXNN_row ..), by simp [opcodeRows, variantsLow, variantsHigh, Instr.row]⟩
theorem drw (x : RegIdx) (y : RegIdx) (n : Nibble) : Statement (.drw x y n) :=
  ⟨OpcodeRow.hasWord_of_eq (encodeXYN_spriteRow ..), by simp [opcodeRows, variantsLow, variantsHigh, Instr.row]⟩
theorem skp (x : RegIdx) : Statement (.skp x) :=
  ⟨OpcodeRow.hasWord_of_eq (encodeXNN_fnRow ..), by simp [opcodeRows, variantsLow, variantsHigh, Instr.row]⟩
theorem sknp (x : RegIdx) : Statement (.sknp x) :=
  ⟨OpcodeRow.hasWord_of_eq (encodeXNN_fnRow ..), by simp [opcodeRows, variantsLow, variantsHigh, Instr.row]⟩
theorem ldFromDt (x : RegIdx) : Statement (.ldFromDt x) :=
  ⟨OpcodeRow.hasWord_of_eq (encodeXNN_fnRow ..), by simp [opcodeRows, variantsLow, variantsHigh, Instr.row]⟩
theorem ldKey (x : RegIdx) : Statement (.ldKey x) :=
  ⟨OpcodeRow.hasWord_of_eq (encodeXNN_fnRow ..), by simp [opcodeRows, variantsLow, variantsHigh, Instr.row]⟩
theorem ldDt (x : RegIdx) : Statement (.ldDt x) :=
  ⟨OpcodeRow.hasWord_of_eq (encodeXNN_fnRow ..), by simp [opcodeRows, variantsLow, variantsHigh, Instr.row]⟩
theorem ldSt (x : RegIdx) : Statement (.ldSt x) :=
  ⟨OpcodeRow.hasWord_of_eq (encodeXNN_fnRow ..), by simp [opcodeRows, variantsLow, variantsHigh, Instr.row]⟩
theorem addI (x : RegIdx) : Statement (.addI x) :=
  ⟨OpcodeRow.hasWord_of_eq (encodeXNN_fnRow ..), by simp [opcodeRows, variantsLow, variantsHigh, Instr.row]⟩
theorem ldF (x : RegIdx) : Statement (.ldF x) :=
  ⟨OpcodeRow.hasWord_of_eq (encodeXNN_fnRow ..), by simp [opcodeRows, variantsLow, variantsHigh, Instr.row]⟩
theorem ldB (x : RegIdx) : Statement (.ldB x) :=
  ⟨OpcodeRow.hasWord_of_eq (encodeXNN_fnRow ..), by simp [opcodeRows, variantsLow, variantsHigh, Instr.row]⟩
theorem store (x : RegIdx) : Statement (.store x) :=
  ⟨OpcodeRow.hasWord_of_eq (encodeXNN_fnRow ..), by simp [opcodeRows, variantsLow, variantsHigh, Instr.row]⟩
theorem load (x : RegIdx) : Statement (.load x) :=
  ⟨OpcodeRow.hasWord_of_eq (encodeXNN_fnRow ..), by simp [opcodeRows, variantsLow, variantsHigh, Instr.row]⟩

end Sys2Proof.Laws.OwnRow
end

