-- ==== Sys2Proof/Laws/Step.lean ====
section
/-! SUPPORT. What one move of the core and one step can do, said once: the case lists every invariant's proof
goes through, and the equations of a step that fetches. -/

namespace Sys2Proof.Machine

open Sys2Proof.Safety

/-- Everything `coreMove` can answer. -/
inductive CoreMoves (s : State) : State → Prop
  | stays : s.phase = .exited → CoreMoves s s
  | leaves : s.phase = .constructed → s.stopped = true → CoreMoves s { s with phase := .exited }
  | checks : s.phase = .checkStop → CoreMoves s (stopCheck s)
  | skips : s.phase = .constructed ∨ s.phase = .awaitFrame → s.halted = true →
      CoreMoves s { s with phase := .checkStop }
  | ends : s.phase = .inCycle 0 → CoreMoves s (endCycle s)
  | idles (left : Nat) : StepsNext s left → stepIdle s = true →
      CoreMoves s { s with phase := .inCycle left }
  | noSteps : s.params.stepsPerTick = 0 → s.halted = false → CoreMoves s { s with phase := .inCycle 0 }
  | raises (left : Nat) (e : FatalError) : StepsNext s left → stepIdle s = false →
      Raisable e → CoreMoves s (raised e s)
  | runs (left : Nat) (i : Instr) (t : State) : StepsNext s left → stepIdle s = false →
      exec i s = .next t → CoreMoves s (afterExec left t)

theorem fetch_cases (s : State) :
    fetch s = .error (.misalignedFetch s.pc) ∨ ∃ op, fetch s = .ok op := by
  rcases Nat.mod_two_eq_zero_or_one s.pc.toNat with h | h
  · exact .inr ⟨_, fetch_even h⟩
  · exact .inl (fetch_odd h)

theorem stepIdle_false {s : State} : stepIdle s = false ↔ s.halted = false ∧ s.stepsEnded = false := by
  simp [stepIdle]

theorem instrStep_moves {s : State} {left : Nat} (hn : StepsNext s left) :
    ∃ t, instrStep left s = .next t ∧ CoreMoves s t := by
  unfold instrStep
  cases hi : stepIdle s with
  | true => exact ⟨_, rfl, .idles left hn hi⟩
  | false =>
    simp only [Bool.false_eq_true, if_false]
    rcases fetch_cases s with hf | ⟨op, hf⟩
    · simp only [hf]
      exact ⟨_, rfl, .raises left _ hn hi (by rintro _ ⟨⟩)⟩
    · simp only [hf]
      cases hd : decode op with
      | error e => exact ⟨_, rfl, .raises left _ hn hi (by rintro _ ⟨⟩)⟩
      | ok i =>
        obtain ⟨t, ht, -⟩ := exec_answers i s
        exact ⟨_, by simp only [ht]; rfl, .runs left i t hn hi ht⟩

/-- A cycle's first step (R144, R147). -/
theorem beginCycle_moves {s : State} (hp : s.phase = .awaitFrame ∨ s.phase = .constructed ∧ s.stopped = false) :
    ∃ t, beginCycle s = .next t ∧ CoreMoves s t := by
  unfold beginCycle
  by_cases hh : s.halted = true
  · rw [if_pos hh]
    exact ⟨_, rfl, .skips (hp.symm.imp And.left id) hh⟩
  · rw [if_neg hh]
    cases hn : s.params.stepsPerTick with
    | zero => exact ⟨_, rfl, .noSteps hn (Bool.eq_false_of_not_eq_true hh)⟩
    | succ left => exact instrStep_moves (.inr (hp.imp (⟨·, hn⟩) fun h => ⟨h.1, h.2, hn⟩))

/-- The core always moves to a next state, one of `CoreMoves`. -/
theorem coreMove_moves (s : State) : ∃ t, coreMove s = .next t ∧ CoreMoves s t := by
  unfold coreMove
  split
  case h_1 hp =>
    split
    case isTrue hs => exact ⟨_, rfl, .leaves hp hs⟩
    case isFalse hs => exact beginCycle_moves (.inr ⟨hp, by simpa using hs⟩)
  case h_2 hp => exact ⟨_, rfl, .checks hp⟩
  case h_3 hp => exact beginCycle_moves (.inl hp)
  case h_4 hp => exact ⟨_, rfl, .ends hp⟩
  case h_5 left hp => exact instrStep_moves (.inl hp)
  case h_6 hp => exact ⟨_, rfl, .stays hp⟩

theorem coreMove_cases {s t : State} (h : coreMove s = .next t) : CoreMoves s t := by
  obtain ⟨u, hu, hm⟩ := coreMove_moves s
  rw [hu] at h
  cases h
  exact hm

/-- Whose move a turn is (R148, R151). -/
theorem turn_cases (s : State) :
    CoresTurn s ∨ WaitsForever s ∨ s.plan.head? = some .withholdFrame ∨ ∃ c, s.plan.head? = some (.call c) := by
  unfold CoresTurn WaitsForever
  cases hp : s.plan with
  | nil => cases waitsForHost s <;> cases s.hostGrants <;> simp
  | cons m rest => cases m <;> simp

/-- At the core's turn a step is its move (R148). -/
theorem step_coresTurn {s : State} (h : CoresTurn s) : step s = coreMove { s with plan := s.plan.tail } := by
  unfold step takeTurn
  rcases h with h | ⟨h, hw⟩
  · split <;> simp_all
  · split
    case h_1 hp =>
      rw [if_neg, hp, List.tail_nil, ← hp]
      cases hb : waitsForHost s <;> simp [hw, hb]
    all_goals simp_all

/-- Where the core waits for a host that never grants, a step changes nothing (R151). -/
theorem step_waitsForever {s : State} (h : WaitsForever s) : step s = .next s := by
  obtain ⟨hp, hw, hg⟩ := h
  simp [step, takeTurn, hp, hw, hg]

/-- Everything a step can answer with a next state: a wait that never ends, a turn without a frame, a host call,
or a core's move. -/
theorem step_cases {s t : State} (h : step s = .next t) :
    (WaitsForever s ∧ t = s) ∨
    (s.plan.head? = some .withholdFrame ∧ t = { s with plan := s.plan.tail }) ∨
    (∃ c, s.plan.head? = some (.call c) ∧ hostCall c { s with plan := s.plan.tail } = .next t) ∨
    (CoresTurn s ∧ CoreMoves { s with plan := s.plan.tail } t) := by
  rcases turn_cases s with hc | hw | hp | ⟨c, hp⟩
  · rw [step_coresTurn hc] at h
    exact .inr (.inr (.inr ⟨hc, coreMove_cases h⟩))
  · rw [step_waitsForever hw] at h
    cases h
    exact .inl ⟨hw, rfl⟩
  · obtain ⟨rest, hp'⟩ := List.head?_eq_some_iff.1 hp
    simp only [step, takeTurn, hp'] at h
    cases h
    exact .inr (.inl ⟨hp, by rw [hp']; rfl⟩)
  · obtain ⟨rest, hp'⟩ := List.head?_eq_some_iff.1 hp
    simp only [step, takeTurn, hp'] at h
    exact .inr (.inr (.inl ⟨c, hp, by rw [hp']; exact h⟩))

/-- Where a `step()` is the core's next move and it is not halted, that move is `instrStep`. -/
theorem coreMove_stepsNext {s : State} {left : Nat} (hn : StepsNext s left) (hh : s.halted = false) :
    coreMove s = instrStep left s := by
  rcases hn with hp | ⟨hp, hs⟩ | ⟨hp, hd, hs⟩
  · simp only [coreMove, hp]
  · simp only [coreMove, hp, beginCycle, hh, hs, Bool.false_eq_true, if_false]
  · simp only [coreMove, hp, beginCycle, hh, hs, hd, Bool.false_eq_true, if_false]

/-- A step at an even pc whose word decodes runs the instruction (R141). -/
theorem instrStep_runs {s : State} {left : Nat} {i : Instr} (hi : stepIdle s = false) (he : s.pc.toNat % 2 = 0)
    (hd : decode (byteAt s s.pc.toNat ++ byteAt s (s.pc.toNat + 1)) = .ok i) :
    instrStep left s = mapNext (afterExec left) (exec i s) := by
  simp only [instrStep, hi, Bool.false_eq_true, if_false, fetch_even he, hd]

end Sys2Proof.Machine
end

