-- ==== Sys2Proof/Tests/Slice0.lean ====
section
/-! SUPPORT. The model's own tests: words written out from the spec's encodings, the refused words, one or two
vectors per instruction from spec 95_test_vectors.md (named by their numbers), and a witness for the hypotheses of
every statement that has some. -/

namespace Sys2Proof.Tests

open Sys2Proof.Machine Sys2Proof.Safety Sys2Proof.Claims

/-- Parameters for the tests: the spec's defaults, ten steps a tick. -/
def params : Config.Params where
  displayW := 64
  displayH := 32
  font := Config.standardFont
  stepsPerTick := 10
  drawEdge := .wrap
  keyWaitValue := .keyIndex
  keyWaitPlaceholder := 0
  timerDecAfterMidcycleHalt := true

/-- The state after construction with both quirks off. -/
def base : State := State.construct params false false 0

/-- The state after construction with both quirks on. -/
def quirky : State := State.construct params true true 0

/-- Some registers set. -/
def regs (s : State) (l : List (RegIdx × Byte)) : State := l.foldl (fun s p => s.setV p.1 p.2) s

/-- A program in memory at 0x200. -/
def loaded (bytes : List Byte) : State := base.setMem (storedAt base 0x200 bytes)

/-- A state in a key-wait for V2 at 0xFFC. -/
def waiting : State := { (base.setPc 0xFFC).beginWait 2 with phase := .awaitFrame }

/-- What a field of the next state is; `none` where there is none. -/
def after (o : Result) (f : State → α) : Option α :=
  match o with
  | .next t => some (f t)
  | .fault _ => none
  | .refused _ => none

/-! ### Decoding: one word of every row of R105, from its match and fields -/

theorem test_decode_control_flow :
    decode 0x00EE = .ok .ret ∧ decode 0x1202 = .ok (.jp 0x202) ∧ decode 0x2ABC = .ok (.call 0xABC) ∧
    decode 0x3A12 = .ok (.seImm 10 0x12) ∧ decode 0x4B34 = .ok (.sneImm 11 0x34) ∧
    decode 0x5120 = .ok (.seReg 1 2) ∧ decode 0x9FE0 = .ok (.sneReg 15 14) ∧ decode 0xB300 = .ok (.jpV0 0x300) := by
  decide

theorem test_decode_arithmetic :
    decode 0x6012 = .ok (.ldImm 0 0x12) ∧ decode 0x7203 = .ok (.addImm 2 0x03) ∧ decode 0x8150 = .ok (.ldReg 1 5) ∧
    decode 0x8011 = .ok (.orReg 0 1) ∧ decode 0x8012 = .ok (.andReg 0 1) ∧ decode 0x8013 = .ok (.xorReg 0 1) ∧
    decode 0x8F14 = .ok (.addReg 15 1) ∧ decode 0x8235 = .ok (.subReg 2 3) ∧ decode 0x8236 = .ok (.shr 2 3) ∧
    decode 0x8237 = .ok (.subn 2 3) ∧ decode 0x810E = .ok (.shl 1 0) ∧ decode 0xC30F = .ok (.rnd 3 0x0F) := by
  decide

theorem test_decode_memory_display_font :
    decode 0xA123 = .ok (.ldI 0x123) ∧ decode 0xF21E = .ok (.addI 2) ∧ decode 0xF033 = .ok (.ldB 0) ∧
    decode 0xF255 = .ok (.store 2) ∧ decode 0xF265 = .ok (.load 2) ∧ decode 0x00E0 = .ok .cls ∧
    decode 0xD125 = .ok (.drw 1 2 5) ∧ decode 0xFA29 = .ok (.ldF 10) := by
  decide

theorem test_decode_timer_input :
    decode 0xF507 = .ok (.ldFromDt 5) ∧ decode 0xF515 = .ok (.ldDt 5) ∧ decode 0xF118 = .ok (.ldSt 1) ∧
    decode 0xE19E = .ok (.skp 1) ∧ decode 0xE1A1 = .ok (.sknp 1) ∧ decode 0xF20A = .ok (.ldKey 2) := by
  decide

/-- Bytes in memory order: the first is the high byte (EX-6); one byte alone is refused. -/
theorem test_decode_bytes :
    decodeBytes [0x12, 0x02, 0xFF] = .ok (.jp 0x202, [0xFF]) ∧ decodeBytes [0x12] = .error .truncated ∧
    decodeTableWord 16 0x1202 = some (.jp 0x202) ∧ decodeTableWord 16 0x0123 = none := by
  decide

/-- DEC-2 to DEC-9: a word of each class that R106 calls illegal is refused, by the table and by the decoder. -/
theorem test_wellformed_refuses_illegal_words :
    legalWord 0x0000 = false ∧ legalWord 0x0123 = false ∧ legalWord 0x00E1 = false ∧ legalWord 0x5121 = false ∧
    legalWord 0x8008 = false ∧ legalWord 0x800F = false ∧ legalWord 0x900E = false ∧ legalWord 0xE09F = false ∧
    legalWord 0xF056 = false ∧ decode 0x5121 = .error (.unrecognized 0x5121) ∧
    decode 0x800F = .error (.unrecognized 0x800F) ∧ decode 0xF0FF = .error (.unrecognized 0xF0FF) := by
  decide

theorem test_wellformed_accepts_legal_words :
    legalWord 0x00E0 = true ∧ legalWord 0x5120 = true ∧ legalWord 0x800E = true ∧ legalWord 0xE09E = true ∧
    legalWord 0xF065 = true ∧ Instr.wellFormed (.drw 15 15 15) = true ∧ Instr.wellFormed (.jp 0xFFF) = true := by
  decide

/-- The opcode table has 34 rows, no two of which share a word: they differ on a bit both fix (R105). -/
theorem test_table_is_disjoint :
    opcodeRows.length = 34 ∧
    opcodeRows.Pairwise fun r q => (r.pattern ^^^ q.pattern) &&& (r.mask &&& q.mask) ≠ 0 := by
  decide

/-! ### Control flow -/

/-- CF-8. -/
theorem test_ret : after (exec .ret { base with pc := 0x400, sp := 1, stack := base.stack.set 0 0x202 })
    (fun t => (t.pc, t.sp, t.stack[0])) = some (0x202, 0, 0x202) := by decide

/-- CF-9. -/
theorem test_ret_underflow : after (exec .ret base) (fun t => (t.fault, t.stopped, t.pc)) =
    some (some (.stackUnderflow 0x200), true, 0x200) := by decide

/-- CF-2. -/
theorem test_jp : after (exec (.jp 0xFFF) base) (·.pc) = some 0xFFF := by decide

/-- CF-4. -/
theorem test_call : after (exec (.call 0x400) base) (fun t => (t.stack[0], t.sp, t.pc)) = some (0x202, 1, 0x400) := by
  decide

/-- CF-7: the stack check comes first. -/
theorem test_call_overflow : after (exec (.call 0x400) { base with pc := 0xFFE, sp := 16 })
    (fun t => (t.fault, t.sp)) = some (some (.stackOverflow 0xFFE), 16) := by decide

/-- CF-10, CF-19. -/
theorem test_se_imm : after (exec (.seImm 0 0x12) (regs base [(0, 0x12)])) (·.pc) = some 0x204 ∧
    after (exec (.seImm 0 1) (base.setPc 0xFFC)) (·.pc) = some 0xFFE := by decide

/-- CF-18. -/
theorem test_se_imm_out : after (exec (.seImm 0 0) (base.setPc 0xFFC)) (fun t => (t.fault, t.pc)) =
    some (some (.pcOutOfRange 0x1000), 0xFFC) := by decide

/-- CF-12, CF-13. -/
theorem test_sne_imm : after (exec (.sneImm 0 0x12) (regs base [(0, 0x12)])) (·.pc) = some 0x202 ∧
    after (exec (.sneImm 0 0x12) (regs base [(0, 0x13)])) (·.pc) = some 0x204 := by decide

/-- CF-14. -/
theorem test_se_reg : after (exec (.seReg 0 1) (regs base [(0, 3), (1, 3)])) (·.pc) = some 0x204 := by decide

/-- CF-16, CF-17. -/
theorem test_sne_reg : after (exec (.sneReg 0 1) (regs base [(0, 3), (1, 4)])) (·.pc) = some 0x204 ∧
    after (exec (.sneReg 0 0) (regs base [(0, 3)])) (·.pc) = some 0x202 := by decide

/-- CF-21, CF-24. -/
theorem test_jp_v0 : after (exec (.jpV0 0x300) (regs base [(0, 0x10)])) (·.pc) = some 0x310 ∧
    after (exec (.jpV0 0) (regs base [(0, 0xFF)])) (·.pc) = some 0x0FF := by decide

/-- CF-22. -/
theorem test_jp_v0_out : after (exec (.jpV0 0xF01) (regs base [(0, 0xFF)])) (·.fault) =
    some (some (.pcOutOfRange 0x1000)) := by decide

/-! ### Arithmetic -/

/-- EX-2 and AR-18. -/
theorem test_ld_imm : after (exec (.ldImm 0 0x12) base) (fun t => (readV t 0, t.pc)) = some (0x12, 0x202) ∧
    after (exec (.ldImm 15 0xAB) base) (readV · 15) = some 0xAB := by decide

/-- AR-21. -/
theorem test_ld_imm_out : after (exec (.ldImm 0 0x12) (base.setPc 0xFFE)) (fun t => (t.fault, readV t 0)) =
    some (some (.pcOutOfRange 0x1000), 0) := by decide

/-- AR-11. -/
theorem test_add_imm_wraps : after (exec (.addImm 0 1) (regs base [(0, 0xFF), (15, 7)]))
    (fun t => (readV t 0, readV t 15)) = some (0, 7) := by decide

/-- AR-17. -/
theorem test_ld_reg : after (exec (.ldReg 0 1) (regs base [(1, 0x0A)])) (readV · 0) = some 0x0A := by decide

/-- AR-12: or. -/
theorem test_or : after (exec (.orReg 0 1) (regs base [(0, 0x0C), (1, 0x0A), (15, 9)]))
    (fun t => (readV t 0, readV t 15)) = some (0x0E, 9) := by decide

/-- AR-12: and. -/
theorem test_and : after (exec (.andReg 0 1) (regs base [(0, 0x0C), (1, 0x0A), (15, 9)]))
    (fun t => (readV t 0, readV t 15)) = some (0x08, 9) := by decide

/-- AR-12: xor. -/
theorem test_xor : after (exec (.xorReg 0 1) (regs base [(0, 0x0C), (1, 0x0A), (15, 9)]))
    (fun t => (readV t 0, readV t 15)) = some (0x06, 9) := by decide

/-- AR-1, AR-2. -/
theorem test_add_carry : after (exec (.addReg 0 1) (regs base [(0, 0xFF), (1, 1)]))
      (fun t => (readV t 0, readV t 15)) = some (0, 1) ∧
    after (exec (.addReg 0 1) (regs base [(0, 0x7F), (1, 1)])) (fun t => (readV t 0, readV t 15)) =
      some (0x80, 0) := by decide

/-- AR-4, AR-5: VF as destination and as operand. -/
theorem test_add_vf : after (exec (.addReg 15 1) (regs base [(15, 0x10), (1, 2)])) (readV · 15) = some 0 ∧
    after (exec (.addReg 0 15) (regs base [(0, 0xFF), (15, 1)])) (fun t => (readV t 0, readV t 15)) =
      some (0, 1) := by decide

/-- AR-6, AR-7. -/
theorem test_sub : after (exec (.subReg 0 1) (regs base [(0, 5), (1, 5)]))
      (fun t => (readV t 0, readV t 15)) = some (0, 1) ∧
    after (exec (.subReg 0 1) (regs base [(0, 4), (1, 5)])) (fun t => (readV t 0, readV t 15)) =
      some (0xFF, 0) := by decide

/-- AR-8, AR-9. -/
theorem test_subn : after (exec (.subn 0 1) (regs base [(0, 4), (1, 5)]))
      (fun t => (readV t 0, readV t 15)) = some (1, 1) ∧
    after (exec (.subn 0 1) (regs base [(0, 6), (1, 5)])) (fun t => (readV t 0, readV t 15)) =
      some (0xFF, 0) := by decide

/-- AR-13, AR-14. -/
theorem test_shr : after (exec (.shr 0 1) (regs base [(0, 0x81), (1, 3)]))
      (fun t => (readV t 0, readV t 1, readV t 15)) = some (1, 3, 1) ∧
    after (exec (.shr 0 1) (regs quirky [(0, 0x81), (1, 3)])) (fun t => (readV t 0, readV t 15)) =
      some (0x40, 1) := by decide

/-- AR-15. -/
theorem test_shl : after (exec (.shl 0 1) (regs base [(0, 0x81), (1, 0x40)]))
      (fun t => (readV t 0, readV t 15)) = some (0x80, 0) ∧
    after (exec (.shl 0 1) (regs quirky [(0, 0x81), (1, 0x40)])) (fun t => (readV t 0, readV t 15)) =
      some (2, 1) := by decide

/-- AR-20 for every generator: a mask of 0 gives 0, and the seed still advances. -/
theorem test_rnd_mask_zero : after (exec (.rnd 0 0) base) (·.rngSeed) = some (Config.rngStep 0).2 ∧
    after (exec (.rnd 0 0) base) (readV · 0) = some ((Config.rngStep 0).1 &&& 0) := ⟨rfl, rfl⟩

/-- AR-22. -/
theorem test_rnd_out : after (exec (.rnd 0 0xFF) (base.setPc 0xFFE)) (fun t => (t.fault, t.rngSeed)) =
    some (some (.pcOutOfRange 0x1000), 0) := by decide

/-! ### Memory instructions -/

/-- MEM-1. -/
theorem test_ld_i : after (exec (.ldI 0x123) base) (fun t => (t.I, t.pc)) = some (0x123, 0x202) := by decide

/-- MEM-2, MEM-3. -/
theorem test_add_i : after (exec (.addI 0) (regs (base.setI 0xFFF) [(0, 1), (15, 5)]))
      (fun t => (t.I, readV t 15)) = some (0, 5) ∧
    after (exec (.addI 0) (regs (base.setI 0x100) [(0, 0xFF)])) (·.I) = some 0x1FF := by decide

/-- MEM-7. -/
theorem test_ld_b : after (exec (.ldB 0) (regs (base.setI 0xFFD) [(0, 123)]))
    (fun t => (t.mem, t.I)) = some ([(0xFFD, 1), (0xFFE, 2), (0xFFF, 3)], 0xFFD) := by decide

/-- MEM-8. -/
theorem test_ld_b_out : after (exec (.ldB 0) (regs (base.setI 0xFFE) [(0, 123)]))
    (fun t => (t.fault, t.mem)) = some (some (.memoryOutOfRange 0x1000), []) := by decide

/-- MEM-10, and MEM-9 with the quirk on. -/
theorem test_store : after (exec (.store 3) (regs (base.setI 0xFFC) [(0, 1), (1, 2), (2, 3), (3, 4)]))
      (fun t => (t.mem, t.I)) = some ([(0xFFC, 1), (0xFFD, 2), (0xFFE, 3), (0xFFF, 4)], 0) ∧
    after (exec (.store 2) (regs (quirky.setI 0x300) [(0, 1), (1, 2), (2, 3), (3, 4)]))
      (fun t => (t.mem, t.I)) = some ([(0x300, 1), (0x301, 2), (0x302, 3)], 0x300) := by decide

/-- MEM-11. -/
theorem test_store_out : after (exec (.store 4) (base.setI 0xFFC)) (fun t => (t.fault, t.mem)) =
    some (some (.memoryOutOfRange 0x1000), []) := by decide

/-- MEM-12. -/
theorem test_load_one : after (exec (.load 0) base) (fun t => (readV t 0, readV t 1, t.I)) =
    some (0xF0, 0, 1) := by decide

/-- MEM-13. -/
theorem test_load_all : after (exec (.load 15) base) (fun t => (t.V.toList, t.I)) =
    some ([0xF0, 0x90, 0x90, 0x90, 0xF0, 0x20, 0x60, 0x20] ++ [0x20, 0x70, 0xF0, 0x10, 0xF0, 0x80, 0xF0, 0xF0],
      0x010) := by decide

/-! ### Display -/

/-- A display with one pixel set. -/
def dot (p : Point) : State := { base with fb := flipPixel base.fb p }

/-- DSP-12. -/
theorem test_cls : after (exec .cls (dot (3, 4))) (fun t => (pixel t.fb (3, 4), t.repaintPending, t.pc)) =
    some (false, true, 0x202) := by decide

/-- DSP-13. -/
theorem test_cls_out : after (exec .cls ((dot (3, 4)).setPc 0xFFE)) (fun t => (t.fault, pixel t.fb (3, 4))) =
    some (some (.pcOutOfRange 0x1000), true) := by decide

/-- DSP-5 (wrap): two rows of one pixel at the bottom edge. -/
theorem test_drw_wrap : after (exec (.drw 0 1 2) (regs ({ base with mem := [(0x300, 0x80), (0x301, 0x80)] }.setI 0x300) [(1, 31)]))
    (fun t => (pixel t.fb (0, 31), pixel t.fb (0, 0), pixel t.fb (1, 31), readV t 15)) =
    some (true, true, false, 0) := by decide

/-- DSP-7: a partial overlap. -/
theorem test_drw_collision : after (exec (.drw 0 1 1) ({ dot (1, 0) with mem := [(0x300, 0xC0)] }.setI 0x300))
    (fun t => (pixel t.fb (0, 0), pixel t.fb (1, 0), readV t 15)) = some (true, false, 1) := by decide

/-! ### Timers -/

/-- TMR-1. -/
theorem test_ld_from_dt : after (exec (.ldFromDt 3) (base.setDT 0x42)) (fun t => (readV t 3, t.DT)) =
    some (0x42, 0x42) := by decide

/-- TMR-2. -/
theorem test_ld_dt : after (exec (.ldDt 4) (regs base [(4, 0xFF)])) (fun t => (t.DT, t.ST)) = some (0xFF, 0) := by decide

/-- R313's example. -/
theorem test_ld_st : after (exec (.ldSt 1) (regs base [(1, 2)])) (fun t => (t.ST, t.DT)) = some (2, 0) := by decide

/-- R310: a timer at 0 stays, one above it falls by one, at a cycle's end. -/
theorem test_cycle_end : after (step { base with phase := .inCycle 0, DT := 5 })
    (fun t => (t.DT, t.ST, t.phase)) = some (4, 0, .checkStop) := by decide

/-! ### Input -/

/-- KEY-1, KEY-2. -/
theorem test_skp : after (exec (.skp 0) ((regs base [(0, 5)]).setKey 5 true)) (·.pc) = some 0x204 ∧
    after (exec (.skp 0) (regs base [(0, 5)])) (·.pc) = some 0x202 := by decide

/-- KEY-5. -/
theorem test_skp_out : after (exec (.skp 0) (regs base [(0, 16)])) (·.fault) =
    some (some (.keyIndexOutOfRange 16)) := by decide

/-- KEY-3, KEY-4. -/
theorem test_sknp : after (exec (.sknp 0) ((regs base [(0, 5)]).setKey 5 true)) (·.pc) = some 0x202 ∧
    after (exec (.sknp 0) (regs base [(0, 5)])) (·.pc) = some 0x204 := by decide

/-- KEY-6. -/
theorem test_sknp_out : after (exec (.sknp 0) (regs base [(0, 0xFF)])) (·.fault) =
    some (some (.keyIndexOutOfRange 0xFF)) := by decide

/-- KEY-9: the step, then the event. -/
theorem test_ld_key : after (exec (.ldKey 2) (base.setPc 0xFFC)) (fun t => (t.halted, t.awaitingKeyTarget, t.pc)) =
      some (true, some 2, 0xFFC) ∧
    after (keyDown (some 0xF) waiting) (fun t => (readV t 2, t.pc, t.halted, t.awaitingKey, t.awaitingKeyTarget)) =
      some (0x0F, 0xFFE, false, false, none) := by decide

/-- KEY-8. -/
theorem test_ld_key_out : after (exec (.ldKey 3) (base.setPc 0xFFE)) (fun t => (t.fault, t.halted)) =
    some (some (.pcOutOfRange 0x1000), false) := by decide

/-! ### Font -/

/-- FNT-2, FNT-5. -/
theorem test_ld_f : after (exec (.ldF 0) (regs base [(0, 0x0A)])) (·.I) = some 0x032 ∧
    after (exec (.ldF 0) (regs base [(0, 0xFF)])) (·.I) = some 0x4FB := by decide

/-- R360's table at its ends, and R7: another font is read in its place. -/
theorem test_font : (List.range 5).map (fun k => byteAt base (75 + k)) = [0xF0, 0x80, 0xF0, 0x80, 0x80] ∧
    byteAt base 80 = 0 ∧
    byteAt (State.construct { params with font := Vector.replicate 80 7 } false false 0) 79 = 7 := by decide

/-! ### Steps, faults and host calls -/

/-- DEC-2: with nothing loaded the first step raises, and the instance stops. -/
theorem test_step_nothing_loaded : after (step base) (fun t => (t.fault, t.stopped, t.phase, t.pc)) =
    some (some (.decodeError 0x0000), true, .exited, 0x200) := by decide

/-- DEC-10. -/
theorem test_step_odd : after (step (base.setPc 0x203)) (·.fault) = some (some (.misalignedFetch 0x203)) := by decide

/-- EX-6, EX-3: the fetch is big-endian, and the jump sets pc exactly. -/
theorem test_step_jp : after (step (loaded [0x12, 0x02])) (fun t => (t.pc, t.phase)) =
    some (0x202, .inCycle 9) := by decide

/-- DSP-9's signal: the step that draws serves the repaint. -/
theorem test_step_repaints : after (step { dot (3, 4) with mem := [(0x200, 0xD0)], I := 0xFFF })
    (fun t => (t.repaintPending, pixel t.surface (3, 4))) = some (false, true) := by decide

/-- TMR-9: a cycle that begins halted does nothing. -/
theorem test_cycle_halted : after (step { waiting with phase := .awaitFrame, DT := 4 })
    (fun t => (t.DT, t.phase, t.pc)) = some (4, .checkStop, 0xFFC) := by decide

/-- KEY-15, FLT-2 and P5: a stop leaves the wait unresolved, and a later key press resolves it. -/
theorem test_stop_in_wait : after (hostCall .stop waiting) (fun t => (t.halted, t.stopped)) = some (true, true) ∧
    after (hostCall (.keyDown (some 7)) { waiting with stopped := true, phase := .exited })
      (fun t => (readV t 2, t.phase)) = some (7, .exited) := by decide

/-- EX-5: two bytes land at the origin. -/
theorem test_load_program : after (hostCall (.loadProgram [0x12, 0x02]) base) (·.mem) =
    some [(0x200, 0x12), (0x201, 0x02)] := by decide

/-- The placed word runs as the first instruction after reset, whatever the OPEN parameters are. -/
theorem test_placed_word : after (step (State.reset.withFetchWord 16 0x6012)) (fun t => (readV t 0, t.pc)) =
    some (0x12, 0x202) := by rfl

/-! ### Witnesses: for the hypotheses of each statement, clause by clause, at the boundary values -/

/-- `Claims.Advances`, so every statement made with it: LoadImmediateWritesTheByte, AddImmediateWrapsWithoutFlag,
CopyRegister, LogicIsBitwiseWithoutFlag, AddSetsCarry, SubtractSetsNoBorrow, ReverseSubtractSetsNoBorrow,
ShiftRightSetsTheBitOut, ShiftLeftSetsTheBitOut, RandomMasksTheGeneratorsByte, LoadIndexWritesTheAddress,
AddToIndexWrapsWithoutFlag, ClearScreenClearsEveryPixel, ReadDelayTimer, SetTheTimers,
FontAddressIsFiveTimesTheDigit, KeyWaitBegins. -/
theorem test_hyp_advances :
    (base.setPc 0xFFD).pc.toNat + 2 ≤ 0xFFF ∧ (0xFFF : Nat) < (base.setPc 0xFFE).pc.toNat + 2 := by decide

/-- `Claims.SkipsIf`, so ByteSkipsCompare, RegisterSkipsCompare, KeySkipsReadTheKey: each outcome of the condition,
with the target at 0xFFF and just past it. -/
theorem test_hyp_skips :
    (base.setPc 0xFFB).pc.toNat + 4 ≤ 0xFFF ∧ (0xFFF : Nat) < (base.setPc 0xFFC).pc.toNat + 4 ∧
    (base.setPc 0xFFD).pc.toNat + 2 ≤ 0xFFF ∧ (0xFFF : Nat) < (base.setPc 0xFFE).pc.toNat + 2 ∧
    (readV base 0).toNat = (0 : Byte).toNat ∧ (readV base 0).toNat ≠ (1 : Byte).toNat ∧
    (readV base 0).toNat = (readV base 1).toNat ∧ (readV (base.setV 0 1) 0).toNat ≠ (readV (base.setV 0 1) 1).toNat ∧
    (1 : Nibble) ≠ 0 := by decide

theorem test_hyp_ReturnPopsTheStack :
    0 < ({ base with sp := 1 } : State).sp.val ∧ 0 < ({ base with sp := 16 } : State).sp.val ∧
    base.sp.val = 0 := by decide

theorem test_hyp_CallPushesTheReturnAddress :
    ({ base with sp := 16 } : State).sp.val = 16 ∧
    (({ base with sp := 15, pc := 0xFFE } : State).sp.val < 16 ∧
      (0xFFF : Nat) < ({ base with sp := 15, pc := 0xFFE } : State).pc.toNat + 2) ∧
    (({ base with sp := 15, pc := 0xFFD } : State).sp.val < 16 ∧
      ({ base with sp := 15, pc := 0xFFD } : State).pc.toNat + 2 ≤ 0xFFF) := by decide

theorem test_hyp_JumpWithOffsetAddsV0 :
    (0xF01 : Addr).toNat + (readV (regs base [(0, 0xFE)]) 0).toNat ≤ 0xFFF ∧
    0xFFF < (0xF01 : Addr).toNat + (readV (regs base [(0, 0xFF)]) 0).toNat := by decide

theorem test_hyp_DecimalStoreWritesThreeDigits :
    (Memory.wf base.params.font (base.setI 0xFFE).mem = true ∧ (0xFFF : Nat) < (base.setI 0xFFE).I.toNat + 2) ∧
    (((base.setI 0xFFD).setPc 0xFFE).I.toNat + 2 ≤ 0xFFF ∧ (0xFFF : Nat) < ((base.setI 0xFFD).setPc 0xFFE).pc.toNat + 2) ∧
    (((base.setI 0xFFD).setPc 0xFFD).I.toNat + 2 ≤ 0xFFF ∧ ((base.setI 0xFFD).setPc 0xFFD).pc.toNat + 2 ≤ 0xFFF) ∧
    (∃ a, a < (base.setI 0xFFD).I.toNat ∨ (base.setI 0xFFD).I.toNat + 2 < a) :=
  ⟨by decide, by decide, by decide, 0, by decide⟩

/-- BlockStoreWritesTheRegisters and BlockLoadReadsTheRegisters. -/
theorem test_hyp_blocks :
    (Memory.wf base.params.font (base.setI 0xFFD).mem = true ∧ (0xFFF : Nat) < (base.setI 0xFFD).I.toNat + (3 : RegIdx).toNat) ∧
    (((base.setI 0xFFC).setPc 0xFFE).I.toNat + (3 : RegIdx).toNat ≤ 0xFFF ∧
      (0xFFF : Nat) < ((base.setI 0xFFC).setPc 0xFFE).pc.toNat + 2) ∧
    (((base.setI 0xFFC).setPc 0xFFD).I.toNat + (3 : RegIdx).toNat ≤ 0xFFF ∧
      ((base.setI 0xFFC).setPc 0xFFD).pc.toNat + 2 ≤ 0xFFF ∧
      (3 : RegIdx).toNat ≤ (3 : RegIdx).toNat ∧ ¬ (4 : RegIdx).toNat ≤ (3 : RegIdx).toNat) := by decide

/-- Displays of the default size and of one pixel are sound, with their pixels toggled too; `clipped` clips. -/
def small : State := State.construct { params with displayW := 1, displayH := 1 } false false 0

def clipped : State := { base with params := { params with drawEdge := .clip } }

theorem base_display : DisplaySound base.params base.fb := by constructor <;> decide

theorem small_display : DisplaySound small.params small.fb := by constructor <;> decide

theorem clipped_display : DisplaySound clipped.params clipped.fb := by constructor <;> decide

theorem test_hyp_ToggleInvertsOnePixel :
    (DisplaySound base.params base.fb ∧ base.params.drawEdge = .wrap ∧
      ((63, 31) : Point) = (127 % displayWidth base, 63 % displayHeight base)) ∧
    (DisplaySound clipped.params clipped.fb ∧ clipped.params.drawEdge = .clip ∧ 63 < displayWidth clipped ∧
      31 < displayHeight clipped) ∧ (displayWidth clipped ≤ 64 ∨ displayHeight clipped ≤ 0) ∧
    (displayWidth clipped ≤ 0 ∨ displayHeight clipped ≤ 32) :=
  ⟨⟨base_display, by decide⟩, ⟨clipped_display, by decide⟩, by decide, by decide⟩

/-- A draw state: one row 0xC0 at 0xFFF, `I` there, pixel (1, 0) set. -/
def drawing : State := { dot (1, 0) with mem := [(0xFFF, 0xC0)], I := 0xFFF }

theorem drawing_display : DisplaySound drawing.params drawing.fb := by constructor <;> decide

theorem test_hyp_DrawTogglesTheSprite :
    (0 < (2 : Nibble).toNat ∧ 0xFFF < drawing.I.toNat + (2 : Nibble).toNat - 1) ∧
    (((0 : Nibble).toNat = 0 ∨ drawing.I.toNat + (0 : Nibble).toNat - 1 ≤ 0xFFF) ∧
      (0xFFF : Nat) < (drawing.setPc 0xFFE).pc.toNat + 2) ∧
    (((1 : Nibble).toNat = 0 ∨ drawing.I.toNat + (1 : Nibble).toNat - 1 ≤ 0xFFF) ∧
      (drawing.setPc 0xFFD).pc.toNat + 2 ≤ 0xFFF) ∧ DisplaySound drawing.params drawing.fb ∧
    (0 < hits drawing 0 0 1 (1, 0) ∧ pixel drawing.fb (1, 0) = true) ∧ hits drawing 0 0 1 (1, 0) % 2 = 1 :=
  ⟨by decide, by decide, by decide, drawing_display, by decide, by decide⟩

/-- On a display of one pixel the row 0xC0 lands on it twice: it ends as it was, and the draw collides. -/
theorem test_hyp_draw_twice_on_one_pixel :
    DisplaySound small.params small.fb ∧ 2 ≤ hits { small with mem := [(0x300, 0xC0)], I := 0x300 } 0 0 1 (0, 0) ∧
    after (exec (.drw 0 0 1) { small with mem := [(0x300, 0xC0)], I := 0x300 })
      (fun t => (pixel t.fb (0, 0), readV t 15)) = some (false, 1) :=
  ⟨small_display, by decide, by decide⟩

/-- No pixel is hit where there is no row, and every pixel of a clear display is clear. -/
theorem test_hyp_draw_nothing :
    (∀ p, (0 < hits drawing 0 0 0 p → pixel drawing.fb p = false) ∧ hits drawing 0 0 0 p < 2) ∧
    ∀ p, pixel base.fb p = false :=
  ⟨fun _ => ⟨fun h => absurd h (Nat.lt_irrefl 0), Nat.zero_lt_two⟩, fun p => pixel_clear params p⟩

/-- The glyph "0" at the top left of a clear display hits a pixel; a sprite without rows hits none twice. -/
theorem test_hyp_DrawingTwiceErases :
    DisplaySound base.params base.fb ∧ (0 : RegIdx) ≠ 15 ∧ (drawing.setPc 0xFFB).I.toNat + (1 : Nibble).toNat ≤ 0x1000 ∧
    (drawing.setPc 0xFFB).pc.toNat + 4 ≤ 0xFFF ∧ (∀ p, pixel base.fb p = false) ∧ 0 < hits base 0 0 1 (0, 0) ∧
    ∀ p, hits base 0 0 0 p < 2 :=
  ⟨base_display, by decide, by decide, by decide, fun p => pixel_clear params p, by decide, fun _ => Nat.zero_lt_two⟩

theorem test_hyp_KeySkipsReadTheKey :
    15 < (readV (regs base [(0, 16)]) 0).toNat ∧ (readV (regs base [(0, 15)]) 0).toNat = (15 : Key).toNat ∧
    keyIsDown (base.setKey 15 true) 15 = true ∧ keyIsDown base 15 = false := by decide

theorem test_hyp_KeyDownResolvesTheWait :
    base.awaitingKey = false ∧ waiting.awaitingKey = true ∧ waiting.awaitingKeyTarget = some 2 ∧
    (waiting.setPc 0xFFD).pc.toNat + 2 ≤ 0xFFF ∧ waiting.params.keyWaitValue = .keyIndex ∧
    ({ waiting with params := { params with keyWaitValue := .placeholder } } : State).params.keyWaitValue =
      .placeholder := by decide

theorem test_hyp_DecodeAndEncodeAgree : decode 0xF065 = .ok (.load 0) ∧ encode (.load 0) = 0xF065 := by decide

theorem test_hyp_DecodeFollowsTheTable :
    decode 0x8126 = .ok (.shr 1 2) ∧ (Instr.shr 1 2).row ∈ opcodeRows ∧ (Instr.shr 1 2).row.hasWord 0x8126 = true ∧
    legalWord 0x8126 = true ∧ legalWord 0x8128 = false := by decide

theorem test_hyp_FetchIsBigEndianAtEvenPc :
    (base.setPc 0xFFF).pc.toNat % 2 = 1 ∧ (base.setPc 0xFFE).pc.toNat % 2 = 0 := by decide

/-- A state with a turn the host gives to the core, and a host that never grants a frame afterwards. -/
def lent (s : State) : State := { s with plan := [.letCore], hostGrants := false }

/-- StepsNext's three forms, each at the core's turn: granted once, granted for good, or not waiting. -/
theorem test_hyp_StepsNext :
    StepsNext base 9 ∧ StepsNext { base with phase := .awaitFrame } 9 ∧
    StepsNext { base with phase := .inCycle 1 } 0 ∧ CoresTurn base ∧ CoresTurn (lent base) ∧
    CoresTurn { base with phase := .inCycle 1, hostGrants := false } :=
  ⟨.inr (.inr ⟨rfl, rfl, rfl⟩), .inr (.inl ⟨rfl, rfl⟩), .inl rfl, .inr ⟨rfl, fun _ => rfl⟩, .inl rfl,
    .inr ⟨rfl, nofun⟩⟩

theorem test_hyp_StepRunsTheDecodedInstruction :
    CoresTurn (lent (loaded [0x12, 0x02])) ∧ StepsNext (lent (loaded [0x12, 0x02])) 9 ∧
    (lent (loaded [0x12, 0x02])).halted = false ∧ (lent (loaded [0x12, 0x02])).stepsEnded = false ∧ (lent (loaded [0x12, 0x02])).pc.toNat % 2 = 0 ∧
    decode (byteAt (lent (loaded [0x12, 0x02])) 0x200 ++ byteAt (lent (loaded [0x12, 0x02])) 0x201) =
      .ok (.jp 0x202) ∧ (raised (.decodeError 0) base).phase = .exited ∧ base.phase ≠ .exited :=
  ⟨.inl rfl, .inr (.inr ⟨rfl, rfl, rfl⟩), rfl, rfl, by decide, by decide, rfl, by decide⟩

theorem test_hyp_StepRaisesFetchAndDecodeErrors :
    CoresTurn (lent base) ∧ StepsNext (lent base) 9 ∧ (lent base).halted = false ∧
    (lent base).stepsEnded = false ∧ (lent (base.setPc 0x203)).pc.toNat % 2 = 1 ∧ (lent base).pc.toNat % 2 = 0 ∧
    legalWord (byteAt (lent base) 0x200 ++ byteAt (lent base) 0x201) = false :=
  ⟨.inl rfl, .inr (.inr ⟨rfl, rfl, rfl⟩), rfl, rfl, by decide, by decide, by decide⟩

/-- A stopped instance whose wait a key press has ended, waiting for its frame. -/
def ended : State := { base with stopped := true, stepsEnded := true, phase := .awaitFrame }

theorem test_hyp_HaltedStepsAndCyclesDoNothing :
    CoresTurn (lent waiting) ∧ CoresTurn waiting ∧ waiting.halted = true ∧
    ({ waiting with phase := .inCycle 1 } : State).phase = .inCycle 1 ∧
    waiting.phase = .awaitFrame ∧ ended.halted = false ∧ ended.stepsEnded = true ∧ CoresTurn ended ∧ StepsNext ended 9 :=
  ⟨.inl rfl, .inr ⟨rfl, fun _ => rfl⟩, rfl, rfl, rfl, rfl, rfl, .inr ⟨rfl, fun _ => rfl⟩, .inr (.inl ⟨rfl, rfl⟩)⟩

theorem test_hyp_CycleEndDecrementsTheTimers :
    CoresTurn (lent base) ∧ ({ base with phase := .inCycle 0 } : State).phase = .inCycle 0 ∧ base.halted = false ∧
    base.stopped = false ∧ waiting.halted = true ∧ waiting.params.timerDecAfterMidcycleHalt = true ∧
    ({ params with timerDecAfterMidcycleHalt := false } : Config.Params).timerDecAfterMidcycleHalt = false ∧
    (stopCall waiting).stopped = true ∧ ({ base with phase := .checkStop } : State).phase = .checkStop ∧
    base.phase = .constructed :=
  ⟨.inl rfl, by decide⟩

theorem test_hyp_StepIgnoresTheStopFlag :
    (({ base with phase := .awaitFrame } : State).phase = .awaitFrame ∧ base.halted = false) ∧
    ({ waiting with phase := .inCycle 1 } : State).phase = .inCycle (0 + 1) ∧
    CoresTurn (lent { base with phase := .awaitFrame }) ∧ CoresTurn { waiting with phase := .inCycle 1 } :=
  ⟨by decide, by decide, .inl rfl, .inr ⟨rfl, nofun⟩⟩

theorem test_hyp_HostCallsTakeTheirTurn :
    ({ base with plan := [.call .stop] } : State).plan = .call .stop :: [] ∧
    ({ base with plan := [.withholdFrame] } : State).plan = .withholdFrame :: [] ∧
    (({ base with hostGrants := false } : State).plan = [] ∧
      ({ base with hostGrants := false } : State).hostGrants = false) ∧ base.phase = .constructed ∧
    ({ base with phase := .awaitFrame } : State).phase = .awaitFrame ∧
    (raised (.decodeError 0) base).phase = .exited ∧
    (({ base with phase := .checkStop } : State).phase ≠ .constructed ∧
      ({ base with phase := .checkStop } : State).phase ≠ .exited) := by decide

/-- R151: a core that waits for a frame it never gets stands still; the one it is lent it takes. -/
theorem test_frame_never_granted :
    after (step { base with phase := .awaitFrame, hostGrants := false }) (·.phase) = some .awaitFrame ∧
    after (step (lent { loaded [0x12, 0x02] with phase := .awaitFrame })) (fun t => (t.pc, t.phase)) =
      some (0x202, .inCycle 9) := by decide

/-- KEY-15 and D36: after a stop in a wait, a key press resolves it, and the tick's steps left run nothing; without
the stop they run (R146). -/
theorem test_stop_then_key :
    let s := { (loaded [0x12, 0x04]).beginWait 2 with pc := 0x1FE, phase := .inCycle 1 }
    after (hostCall (.keyDown (some 7)) { s with stopped := true })
      (fun t => after (step t) (fun u => (readV u 2, u.pc, u.halted, u.phase))) =
        some (some (7, 0x200, false, .inCycle 0)) ∧
    after (hostCall (.keyDown (some 7)) s) (fun t => after (step t) (·.pc)) = some (some 0x204) := by decide

theorem test_hyp_LoadProgramImplantsTheBytes :
    Memory.wf base.params.font base.mem = true ∧ (List.replicate 3584 (1 : Byte)).length ≤ 3584 ∧
    3584 < (List.replicate 3585 (1 : Byte)).length ∧ base.phase = .constructed :=
  ⟨rfl, by rw [List.length_replicate], by rw [List.length_replicate]; decide, rfl⟩

theorem test_hyp_InstructionsRaiseTheirErrors :
    errorOf base .ret = some (.stackUnderflow 0x200) ∧ errorOf base (.ldKey 0) = none ∧
    errorOf (base.setPc 0xFFE) (.ldKey 0) = some (.pcOutOfRange 0x1000) := by decide

/-- StackSeedAndMemoryWriters and ControlFieldWriters: an instruction outside each list of writers. -/
theorem test_hyp_writers :
    (∃ t, exec (.ldImm 0 1) base = .next t) ∧ (∀ n, Instr.ldImm 0 1 ≠ .call n) ∧ Instr.ldImm 0 1 ≠ .ret ∧
    (∀ x nn, Instr.ldImm 0 1 ≠ .rnd x nn) ∧ (∀ x, Instr.ldImm 0 1 ≠ .ldB x) ∧ (∀ x, Instr.ldImm 0 1 ≠ .store x) ∧
    (∀ x, Instr.ldImm 0 1 ≠ .ldKey x) ∧ Instr.ldImm 0 1 ≠ .cls ∧ (∀ x y n, Instr.ldImm 0 1 ≠ .drw x y n) ∧
    (∀ x, Instr.ldImm 0 1 ≠ .ldDt x) ∧ ∀ x, Instr.ldImm 0 1 ≠ .ldSt x :=
  ⟨⟨_, rfl⟩, nofun, nofun, nofun, nofun, nofun, nofun, nofun, nofun, nofun, nofun⟩

theorem test_hyp_OnlyFlagWritersTouchVf :
    canWriteVf (.ldImm 14 1) = false ∧ canWriteVf (.load 14) = false ∧ canWriteVf (.load 15) = true ∧
    ∃ t, exec (.ldImm 14 1) base = .next t := ⟨by decide, by decide, by decide, _, rfl⟩

theorem test_hyp_ReturnUndoesCall :
    ({ base with sp := 15, pc := 0xFFD } : State).sp.val < 16 ∧
    ({ base with sp := 15, pc := 0xFFD } : State).pc.toNat + 2 ≤ 0xFFF := by decide

theorem test_hyp_NextFetchSeesTheStore :
    Memory.wf base.params.font ((base.setI 0xFFE).setPc 0xFFC).mem = true ∧
    ((base.setI 0xFFE).setPc 0xFFC).I.toNat = ((base.setI 0xFFE).setPc 0xFFC).pc.toNat + 2 ∧
    1 ≤ (1 : RegIdx).toNat ∧ ((base.setI 0xFFE).setPc 0xFFC).I.toNat + (1 : RegIdx).toNat ≤ 0xFFF ∧
    ((base.setI 0xFFE).setPc 0xFFC).pc.toNat % 2 = 0 := by decide

theorem test_hyp_CanonicalMemoryIsUnique :
    let font := Config.standardFont
    Memory.wf font (writeByte font (writeByte font [] 0x301 2) 0x300 1) = true ∧
    Memory.wf font [(0x300, 1), (0x301, 2)] = true ∧
    ∀ a, readByte font (writeByte font (writeByte font [] 0x301 2) 0x300 1) a =
      readByte font [(0x300, 1), (0x301, 2)] a :=
  ⟨by decide, by decide, fun _ => rfl⟩

/-- The constructed state meets the model's invariant, and so does a wait, an error and a stop. -/
theorem base_inv : Inv base := by
  constructor <;> first | exact base_display | simp [base, State.construct, Memory.wf, params]

theorem waiting_inv : Inv waiting := by
  constructor <;> first
    | exact ⟨by decide, by decide, by decide⟩
    | simp [waiting, State.beginWait, base, State.construct, Memory.wf, params]

theorem raised_inv : Inv (raised (.decodeError 0) base) := by
  constructor <;> first
    | exact ⟨by decide, by decide, by decide⟩
    | simp [raised, base, State.construct, Memory.wf, params]

theorem ended_inv : Inv ended := by
  constructor <;> first
    | exact ⟨by decide, by decide, by decide⟩
    | simp [ended, base, State.construct, Memory.wf, params]

theorem stopped_waiting_inv : Inv (stopCall waiting) := by
  constructor <;> first
    | exact ⟨by decide, by decide, by decide⟩
    | simp [stopCall, waiting, State.beginWait, base, State.construct, Memory.wf, params]

/-- StepKeepsTheInvariant and SpecInvariantsAreKept: states that meet them, with their next states. -/
theorem test_hyp_StepKeepsTheInvariant :
    (Inv base ∧ ∃ t, step base = .next t) ∧ (Inv waiting ∧ ∃ t, step waiting = .next t) ∧ SpecInv waiting :=
  ⟨⟨base_inv, _, rfl⟩, ⟨waiting_inv, _, rfl⟩, by
    constructor <;> simp [waiting, State.beginWait, base, State.construct]⟩

theorem test_hyp_StepNeverFaults : Inv base ∧ HostDuty base :=
  ⟨base_inv, fun _ _ _ => rfl, fun _ _ => .inl rfl⟩

theorem test_hyp_FatalErrorEndsTheRun :
    Inv (raised (.decodeError 0) base) ∧ (raised (.decodeError 0) base).plan = [] ∧
    (raised (.decodeError 0) base).fault ≠ none := ⟨raised_inv, rfl, by decide⟩

theorem test_hyp_ExitedIsFinal :
    Inv (raised (.decodeError 0) base) ∧ (raised (.decodeError 0) base).phase = .exited ∧
    (∃ t, step (raised (.decodeError 0) base) = .next t) ∧
    (Inv (stopCall waiting) ∧ (stopCall waiting).awaitingKey = true ∧ (stopCall waiting).stopped = true) ∧
    (Inv ended ∧ ended.stepsEnded = true ∧ ∃ t, step ended = .next t) :=
  ⟨raised_inv, rfl, ⟨_, rfl⟩, ⟨stopped_waiting_inv, rfl, rfl⟩, ended_inv, rfl, _, rfl⟩

theorem test_hyp_PlacedWordRunsNext :
    Memory.wf base.params.font base.mem = true ∧ decodeTableWord 16 0xF065 = some (.load 0) := by decide

end Sys2Proof.Tests
end

namespace Sys2Proof.Machine

open Sys2Proof.Safety Sys2Proof.Claims

/-! ## What every instruction answers

`exec` as one equation: the state after an instruction is `raised` with the error of `errorOf`, or else its effect with
its target in `pc`. Every statement about who writes what is then about `effect` alone. -/

/-- The effect of an instruction that completes, without its final write of `pc`. -/
def effect (s : State) : Instr → State
  | .cls => s.clearScreen
  | .ret => { s with sp := ⟨s.sp.val - 1, by omega⟩ }
  | .call _ => { s with
      stack := s.stack.setIfInBounds s.sp.val (BitVec.ofNat 12 (s.pc.toNat + 2))
      sp := ⟨min (s.sp.val + 1) 16, by omega⟩ }
  | .ldImm x nn => s.setV x nn
  | .addImm x nn => s.setV x (readV s x + nn)
  | .ldReg x y => s.setV x (readV s y)
  | .orReg x y => s.setV x (readV s x ||| readV s y)
  | .andReg x y => s.setV x (readV s x &&& readV s y)
  | .xorReg x y => s.setV x (readV s x ^^^ readV s y)
  | .addReg x y => s.setWithFlag x (readV s x + readV s y) (addCarry (readV s x) (readV s y))
  | .subReg x y => s.setWithFlag x (readV s x - readV s y) (noBorrow (readV s x) (readV s y))
  | .shr x y => s.setWithFlag x (shiftInput s x y >>> 1) (bitOutRight (shiftInput s x y))
  | .subn x y => s.setWithFlag x (readV s y - readV s x) (noBorrow (readV s y) (readV s x))
  | .shl x y => s.setWithFlag x (shiftInput s x y <<< 1) (bitOutLeft (shiftInput s x y))
  | .ldI nnn => s.setI nnn
  | .rnd x nn => (s.setSeed (Config.rngStep s.rngSeed).2).setV x ((Config.rngStep s.rngSeed).1 &&& nn)
  | .drw x y n => drawSprite x y n s
  | .ldFromDt x => s.setV x s.DT
  | .ldKey x => s.beginWait x
  | .ldDt x => s.setDT (readV s x)
  | .ldSt x => s.setST (readV s x)
  | .addI x => s.setI (s.I + (readV s x).setWidth 12)
  | .ldF x => s.setI (glyphAddr (readV s x))
  | .ldB x => s.setMem (storedAt s s.I.toNat (decimalDigits (readV s x)))
  | .store x => (s.setMem (storedAt s s.I.toNat (blockRegs s x))).setI (indexAfterBlock s x)
  | .load x => State.setI (indexAfterBlock s x) { s with V := loadedRegs s x s.I.toNat }
  | .jp _ | .jpV0 _ | .seImm _ _ | .sneImm _ _ | .seReg _ _ | .sneReg _ _ | .skp _ | .sknp _ => s

/-- Where a skip on the key that V[x] names goes; `taken` says which state of the key skips (R334, R335). -/
def keyTarget (s : State) (x : RegIdx) (taken : Bool → Bool) : Nat :=
  s.pc.toNat + if taken (s.key[(readV s x).toNat]?.getD false) then 4 else 2

/-- What an instruction that completes stores in `pc`. -/
def target (s : State) : Instr → Nat
  | .ret => (s.stack[s.sp.val - 1]'(show s.sp.val - 1 < 16 by omega)).toNat
  | .jp nnn | .call nnn => nnn.toNat
  | .jpV0 nnn => nnn.toNat + (readV s 0).toNat
  | .seImm x nn => s.pc.toNat + if readV s x = nn then 4 else 2
  | .sneImm x nn => s.pc.toNat + if readV s x = nn then 2 else 4
  | .seReg x y => s.pc.toNat + if readV s x = readV s y then 4 else 2
  | .sneReg x y => s.pc.toNat + if readV s x = readV s y then 2 else 4
  | .skp x => keyTarget s x id
  | .sknp x => keyTarget s x not
  | .ldKey _ => s.pc.toNat
  | _ => s.pc.toNat + 2

/-- The state after an instruction that completes. -/
def completed (s : State) (i : Instr) : State := (effect s i).setPc (target s i)

@[simp] theorem completed_mem (s : State) (i : Instr) : (completed s i).mem = (effect s i).mem := rfl
@[simp] theorem completed_fb (s : State) (i : Instr) : (completed s i).fb = (effect s i).fb := rfl

/-- The state with the error taken, if there is one, and else `done`. -/
def raisedOr (s : State) (err : Option FatalError) (done : State) : State := err.elim done (raised · s)

theorem setPc_self (s : State) : s.setPc s.pc.toNat = s := by simp [State.setPc]

theorem commit_eq (t : Nat) (f : State → State) (s : State) :
    commit t f s = .next (raisedOr s (pcError t) ((f s).setPc t)) := by
  unfold pcError
  split
  · exact commit_out f s ‹_›
  · exact commit_in f s (by omega)

theorem skipIf_eq {c : Bool} {d : Nat} (s : State) (hd : (if c then 4 else 2) = d) :
    skipIf c s = .next (raisedOr s (pcError (s.pc.toNat + d)) (s.setPc (s.pc.toNat + d))) := by
  subst hd
  cases c <;> exact commit_eq _ id s

/-- An access whose highest address is `a`, and then an advance. -/
theorem access_advance_eq (a : Nat) (f : State → State) (s : State) :
    (if Config.maxAddr < a then takeFatal (.memoryOutOfRange a) s else advance f s) =
      .next (raisedOr s (memoryError s a) ((f s).setPc (s.pc.toNat + 2))) := by
  unfold memoryError
  split
  · rfl
  · exact commit_eq _ f s

/-- A key operand and the key it names: past 15 there is neither (R334, D23). -/
theorem keyOperand_cases (s : State) (b : Byte) :
    (keyOperand b = none ∧ s.key[b.toNat]? = none) ∨
      ∃ k, keyOperand b = some k ∧ s.key[b.toNat]? = some (keyIsDown s k) := by
  by_cases h : 15 < b.toNat
  · exact .inl ⟨keyOperand_high h, by simp; omega⟩
  · have hk : b.toNat = (b.setWidth 4 : Key).toNat := by rw [BitVec.toNat_setWidth]; omega
    refine .inr ⟨_, keyOperand_of_key hk, ?_⟩
    rw [hk]
    exact Vector.getElem?_eq_getElem _

theorem execSkp_eq (x : RegIdx) (s : State) :
    execSkp x s = .next (raisedOr s (keyError s x id) (s.setPc (keyTarget s x id))) := by
  rcases keyOperand_cases s (readV s x) with ⟨ho, hk⟩ | ⟨k, ho, hk⟩
  · simp only [execSkp, ho, keyError, hk]; rfl
  · simp only [execSkp, ho, keyError, keyTarget, hk]; exact skipIf_eq s rfl

theorem execSknp_eq (x : RegIdx) (s : State) :
    execSknp x s = .next (raisedOr s (keyError s x not) (s.setPc (keyTarget s x not))) := by
  rcases keyOperand_cases s (readV s x) with ⟨ho, hk⟩ | ⟨k, ho, hk⟩
  · simp only [execSknp, ho, keyError, hk]; rfl
  · simp only [execSknp, ho, keyError, keyTarget, hk]; exact skipIf_eq s rfl

theorem execRet_eq (s : State) : execRet s = .next (raisedOr s (errorOf s .ret) (completed s .ret)) := by
  by_cases h : s.sp.val = 0
  · rw [execRet_empty h]
    simp [errorOf, h, raisedOr]
  · rw [execRet_entry (by omega)]
    simp [errorOf, h, raisedOr, completed, effect, target]

theorem execCall_eq (nnn : Addr) (s : State) :
    execCall nnn s = .next (raisedOr s (errorOf s (.call nnn)) (completed s (.call nnn))) := by
  by_cases h : s.sp.val = 16
  · rw [execCall_full nnn h]
    simp [errorOf, h, raisedOr]
  · have hr : s.sp.val < 16 := by omega
    by_cases hp : 0xFFF < s.pc.toNat + 2
    · rw [execCall_out nnn hr hp]
      simp [errorOf, h, pcError, hp, raisedOr]
    · rw [execCall_room nnn hr (by omega)]
      have hm : min (s.sp.val + 1) 16 = s.sp.val + 1 := by omega
      have hs (a : Addr) : s.stack.setIfInBounds s.sp.val a = s.stack.set s.sp.val a hr := by
        ext; simp [Vector.getElem_set, Vector.getElem_setIfInBounds]
      simp [errorOf, h, pcError, hp, raisedOr, completed, effect, target, hm, hs]

theorem execLdKey_eq (x : RegIdx) (s : State) :
    execLdKey x s = .next (raisedOr s (errorOf s (.ldKey x)) (completed s (.ldKey x))) := by
  have hc : completed s (.ldKey x) = s.beginWait x := setPc_self (s.beginWait x)
  rw [hc]
  by_cases hp : 0xFFF < s.pc.toNat + 2
  · rw [execLdKey_out x hp]
    simp [errorOf, pcError, hp, raisedOr]
  · rw [execLdKey_in x (by omega)]
    simp [errorOf, pcError, hp, raisedOr]

theorem execDrw_eq (x y : RegIdx) (n : Nibble) (s : State) :
    execDrw x y n s = .next (raisedOr s (errorOf s (.drw x y n)) (completed s (.drw x y n))) := by
  by_cases hn : n = 0
  · subst hn
    exact access_advance_eq 0 (drawSprite x y 0) s
  · have h0 : 0 < n.toNat := by bv_omega
    simp only [execDrw, h0, true_and, errorOf, if_neg hn]
    exact access_advance_eq _ (drawSprite x y n) s

/-- What every instruction answers: the error of its rule's first failing check, with no effect, or its effect. -/
theorem exec_eq (i : Instr) (s : State) : exec i s = .next (raisedOr s (errorOf s i) (completed s i)) := by
  cases i
  case ret => exact execRet_eq s
  case call nnn => exact execCall_eq nnn s
  case ldKey x => exact execLdKey_eq x s
  case skp x => exact execSkp_eq x s
  case sknp x => exact execSknp_eq x s
  case seImm x nn => exact skipIf_eq s (by simp)
  case seReg x y => exact skipIf_eq s (by simp)
  case sneImm x nn => exact skipIf_eq s (by by_cases h : readV s x = nn <;> simp [h])
  case sneReg x y => exact skipIf_eq s (by by_cases h : readV s x = readV s y <;> simp [h])
  case jp nnn => exact commit_in id s (by omega)
  case drw x y n => exact execDrw_eq x y n s
  case rnd x nn => exact commit_eq _ (effect · (.rnd x nn)) s
  case ldB x => exact access_advance_eq _ _ s
  case store x => exact access_advance_eq _ _ s
  case load x => exact access_advance_eq _ _ s
  all_goals exact commit_eq _ _ s

theorem pcError_raisable {t : Nat} {e : FatalError} (h : pcError t = some e) : Raisable e := by
  unfold pcError at h
  split at h <;> cases h
  rintro _ ⟨⟩

theorem memoryError_raisable {s : State} {a : Nat} {e : FatalError} (h : memoryError s a = some e) : Raisable e := by
  unfold memoryError at h
  split at h
  · cases h; rintro _ ⟨⟩
  · exact pcError_raisable h

theorem keyError_raisable {s : State} {x : RegIdx} {taken : Bool → Bool} {e : FatalError}
    (h : keyError s x taken = some e) : Raisable e := by
  unfold keyError at h
  split at h
  · cases h; rintro _ ⟨⟩
  · exact pcError_raisable h

/-- No instruction raises kind 8 (R370, R383). -/
theorem errorOf_raisable {s : State} {i : Instr} {e : FatalError} (h : errorOf s i = some e) : Raisable e := by
  cases i
  case ret =>
    simp only [errorOf] at h
    split at h <;> cases h
    rintro _ ⟨⟩
  case call nnn =>
    simp only [errorOf] at h
    split at h
    · cases h; rintro _ ⟨⟩
    · exact pcError_raisable h
  case jp nnn => cases h
  case skp x => exact keyError_raisable h
  case sknp x => exact keyError_raisable h
  case drw x y n => exact memoryError_raisable h
  case ldB x => exact memoryError_raisable h
  case store x => exact memoryError_raisable h
  case load x => exact memoryError_raisable h
  all_goals exact pcError_raisable h

/-- What a next state of an instruction is: an error taken with no effect, or the effect with every check passed. -/
theorem exec_cases {i : Instr} {s t : State} (h : exec i s = .next t) :
    (∃ e, Raisable e ∧ t = raised e s) ∨ (errorOf s i = none ∧ t = completed s i) := by
  rw [exec_eq] at h
  cases h
  cases he : errorOf s i with
  | some e => exact .inl ⟨e, errorOf_raisable he, rfl⟩
  | none => exact .inr ⟨rfl, rfl⟩

theorem le_of_pcError_none {t : Nat} (h : pcError t = none) : t ≤ 0xFFF := by
  unfold pcError at h
  split at h
  · cases h
  · omega

theorem le_of_memoryError_none {s : State} {a : Nat} (h : memoryError s a = none) : a ≤ 0xFFF := by
  unfold memoryError at h
  split at h
  · cases h
  · omega

/-! ### The frame of an effect -/

theorem effect_stack {s : State} {i : Instr} (h : ∀ n, i ≠ .call n) : (effect s i).stack = s.stack := by
  cases i
  case call n => exact absurd rfl (h n)
  all_goals simp [effect, drawSprite]

theorem effect_sp {s : State} {i : Instr} (hc : ∀ n, i ≠ .call n) (hr : i ≠ .ret) : (effect s i).sp = s.sp := by
  cases i
  case call n => exact absurd rfl (hc n)
  case ret => exact absurd rfl hr
  all_goals simp [effect, drawSprite]

theorem effect_rngSeed {s : State} {i : Instr} (h : ∀ x nn, i ≠ .rnd x nn) : (effect s i).rngSeed = s.rngSeed := by
  cases i
  case rnd x nn => exact absurd rfl (h x nn)
  all_goals simp [effect, drawSprite]

theorem effect_mem {s : State} {i : Instr} (hb : ∀ x, i ≠ .ldB x) (hs : ∀ x, i ≠ .store x) :
    (effect s i).mem = s.mem := by
  cases i
  case ldB x => exact absurd rfl (hb x)
  case store x => exact absurd rfl (hs x)
  all_goals simp [effect, drawSprite]

theorem effect_wait {s : State} {i : Instr} (h : ∀ x, i ≠ .ldKey x) :
    (effect s i).halted = s.halted ∧ (effect s i).awaitingKey = s.awaitingKey ∧
      (effect s i).awaitingKeyTarget = s.awaitingKeyTarget := by
  cases i
  case ldKey x => exact absurd rfl (h x)
  all_goals simp [effect, drawSprite]

theorem effect_display {s : State} {i : Instr} (hc : i ≠ .cls) (hd : ∀ x y n, i ≠ .drw x y n) :
    (effect s i).repaintPending = s.repaintPending ∧ (effect s i).fb = s.fb := by
  cases i
  case cls => exact absurd rfl hc
  case drw x y n => exact absurd rfl (hd x y n)
  all_goals simp [effect]

theorem effect_DT {s : State} {i : Instr} (h : ∀ x, i ≠ .ldDt x) : (effect s i).DT = s.DT := by
  cases i
  case ldDt x => exact absurd rfl (h x)
  all_goals simp [effect, drawSprite]

theorem effect_ST {s : State} {i : Instr} (h : ∀ x, i ≠ .ldSt x) : (effect s i).ST = s.ST := by
  cases i
  case ldSt x => exact absurd rfl (h x)
  all_goals simp [effect, drawSprite]

theorem effect_kept (s : State) (i : Instr) : Kept s (effect s i) := by
  cases i <;> constructor <;> simp [effect, drawSprite]

theorem completed_kept (s : State) (i : Instr) : Kept s (completed s i) := { effect_kept s i with }

/-- Loading V0 through V[X] leaves VF alone unless X = 15 (R255). -/
theorem readV_effect_load_vf (s : State) {x : RegIdx} (h : x ≠ 15) : readV (effect s (.load x)) 15 = readV s 15 := by
  have hx : ¬ (15 : RegIdx).toNat ≤ x.toNat := by bv_omega
  exact (readV_loadedRegs s x s.I.toNat 15).trans (if_neg hx)

theorem readV_setV_vf (s : State) {x : RegIdx} (b : Byte) (h : (x == 15) = false) :
    readV (s.setV x b) 15 = readV s 15 := by
  rw [readV_setV, if_neg]
  rintro rfl
  exact absurd h (by decide)

theorem readV_effect_vf {s : State} {i : Instr} (h : canWriteVf i = false) : readV (effect s i) 15 = readV s 15 := by
  cases i
  case load x => exact readV_effect_load_vf s (by simpa [canWriteVf] using h)
  case addReg | subReg | shr | subn | shl | drw => cases h
  case rnd x nn => exact readV_setV_vf (s.setSeed _) _ h
  case ldImm | addImm | ldReg | orReg | andReg | xorReg | ldFromDt => exact readV_setV_vf s _ h
  all_goals exact readV_congr (by simp [effect]) _

/-! ### What an effect keeps sound -/

/-- An effect begins a key-wait or leaves the key-wait's fields alone (R336, R39, R40). -/
theorem effect_wait_cases (s : State) (i : Instr) :
    (∃ x, i = .ldKey x) ∨ ((effect s i).halted = s.halted ∧ (effect s i).awaitingKey = s.awaitingKey ∧
      (effect s i).awaitingKeyTarget = s.awaitingKeyTarget) := by
  by_cases h : ∃ x, i = .ldKey x
  · exact .inl h
  · exact .inr (effect_wait fun x hx => h ⟨x, hx⟩)

/-- An instruction that passes its checks keeps memory canonical: its stores end by 0xFFF (R74, R252, R254; log 11). -/
theorem wf_effect_mem {s : State} {i : Instr} (he : errorOf s i = none) (h : Memory.wf s.params.font s.mem = true) :
    Memory.wf s.params.font (effect s i).mem = true := by
  cases i
  case ldB x =>
    have ha : s.I.toNat + 2 ≤ 0xFFF := le_of_memoryError_none he
    exact wf_storedAt _ (by simp [decimalDigits]; omega) h
  case store x =>
    have ha : s.I.toNat + x.toNat ≤ 0xFFF := le_of_memoryError_none he
    exact wf_storedAt _ (by rw [length_blockRegs]; omega) h
  all_goals simpa [effect, drawSprite] using h

/-- An effect keeps the display sound (R47; log 20). -/
theorem displaySound_effect {s : State} (i : Instr) (h : DisplaySound s.params s.fb) :
    DisplaySound s.params (effect s i).fb := by
  cases i
  case cls => exact displaySound_clear h.width_pos h.height_pos
  case drw x y n => exact displaySound_toggleAll _ h
  all_goals simpa [effect] using h

/-- An effect on the display signals a repaint (R286, R287, R288). -/
theorem effect_fb_or_repaint (s : State) (i : Instr) :
    (effect s i).repaintPending = true ∨ (effect s i).fb = s.fb := by
  cases i
  case cls => exact .inl rfl
  case drw x y n => exact .inl rfl
  all_goals exact .inr (by simp [effect])

/-- After a served repaint the surface shows the display, whatever the instruction did to it (R282, R410). -/
theorem surface_signalRepaint_completed {s : State} (i : Instr) (h : s.surface = s.fb) :
    (completed s i).signalRepaint.surface = (completed s i).fb := by
  rw [State.signalRepaint_surface]
  split
  · rfl
  next hr =>
    have hf : (completed s i).fb = s.fb := (effect_fb_or_repaint s i).resolve_left hr
    rw [(completed_kept s i).surface, hf, h]

/-! ## What a host call can answer -/

/-- Everything a host call can answer with a next state. -/
inductive HostCalls (s : State) : State → Prop
  | same : HostCalls s s
  | loads (bytes : List Byte) : s.phase = .constructed → bytes.length ≤ loadCapacity →
      HostCalls s (s.setMem (storedAt s Config.programOrigin bytes))
  | starts : s.phase = .constructed → HostCalls s { s with phase := .checkStop }
  | stops : HostCalls s (stopCall s)
  | setsKey (k : Key) (down : Bool) : HostCalls s (s.setKey k down)
  | resolves (k : Key) (x : RegIdx) : s.awaitingKey = true → s.awaitingKeyTarget = some x →
      s.pc.toNat + 2 ≤ 0xFFF → HostCalls s
        (((s.setKey k true).setV x (keyWaitByte s.params k)).endWait.endSteps.setPc (s.pc.toNat + 2))

theorem resolve_cases {k : Key} {s t : State} (h : resolve k s = .next t) :
    ∃ x, s.awaitingKeyTarget = some x ∧ s.pc.toNat + 2 ≤ 0xFFF ∧
      t = (s.setV x (keyWaitByte s.params k)).endWait.endSteps.setPc (s.pc.toNat + 2) := by
  unfold resolve at h
  split at h
  · cases h
  next x hx =>
    split at h
    · cases h
    next hp => cases h; exact ⟨x, hx, Nat.not_lt.1 hp, rfl⟩

theorem keyDown_cases {code : Option Key} {s t : State} (h : keyDown code s = .next t) : HostCalls s t := by
  cases code with
  | none => cases h; exact .same
  | some k =>
    cases ha : s.awaitingKey with
    | false =>
      rw [keyDown_noWait k ha] at h
      cases h
      exact .setsKey k true
    | true =>
      simp only [keyDown, ha, if_true] at h
      obtain ⟨x, hx, hp, rfl⟩ := resolve_cases h
      exact .resolves k x ha hx hp

theorem hostCall_cases {c : HostCall} {s t : State} (h : hostCall c s = .next t) : HostCalls s t := by
  cases c with
  | loadProgram bytes =>
    simp only [hostCall, loadProgram] at h
    split at h
    case h_1 hp hl =>
      cases h
      split at hl <;> cases hl
      exact .loads bytes hp (by omega)
    case h_2 => cases h; exact .same
    case h_3 => cases h
  | run =>
    simp only [hostCall] at h
    split at h
    case h_1 hp => cases h; exact .starts hp
    case h_2 => cases h; exact .same
    case h_3 => cases h
  | stop => cases h; exact .stops
  | keyDown code => exact keyDown_cases h
  | keyUp code =>
    cases h
    cases code with
    | none => exact .same
    | some k => exact .setsKey k false
  | isDone => cases h; exact .same
  | isPaused => cases h; exact .same

/-! ## The scheduler's writes -/

theorem phase_ne_exited_of_stepsNext {s : State} {left : Nat} (h : StepsNext s left) : s.phase ≠ .exited := by
  rcases h with hp | ⟨hp, -⟩ | ⟨hp, -⟩ <;> simp [hp]

theorem afterExec_raised (left : Nat) (e : FatalError) (s : State) :
    afterExec left (raised e s) = raised e s := if_pos rfl

theorem afterExec_running {s : State} (left : Nat) (h : s.phase ≠ .exited) :
    afterExec left s = { s.signalRepaint with phase := .inCycle left } := if_neg h

/-- Where a core's move is an instruction, it is an error taken, or a completed instruction with its repaint served. -/
theorem afterExec_cases {s t : State} {left : Nat} {i : Instr} (hp : s.phase ≠ .exited) (h : exec i s = .next t) :
    (∃ e, Raisable e ∧ afterExec left t = raised e s) ∨
      (errorOf s i = none ∧ afterExec left t = { (completed s i).signalRepaint with phase := .inCycle left }) := by
  rcases exec_cases h with ⟨e, he, rfl⟩ | ⟨he, rfl⟩
  · exact .inl ⟨e, he, afterExec_raised left e s⟩
  · exact .inr ⟨he, afterExec_running left (by rwa [(completed_kept s i).phase])⟩

/-- The end of a cycle writes the timers and the phase (R144). -/
theorem endCycle_cases (s : State) :
    endCycle s = { decTimers s with phase := .checkStop } ∨ endCycle s = { s with phase := .checkStop } := by
  unfold endCycle
  split
  · exact .inl rfl
  · exact .inr rfl

/-! ## Construction -/

theorem readV_construct (p : Config.Params) (q l : Bool) (d : Seed) (r : RegIdx) :
    readV (State.construct p q l d) r = 0 := Vector.getElem_replicate _

theorem keyIsDown_construct (p : Config.Params) (q l : Bool) (d : Seed) (k : Key) :
    keyIsDown (State.construct p q l d) k = false := Vector.getElem_replicate _

theorem byteAt_construct (p : Config.Params) (q l : Bool) (d : Seed) (a : Nat) :
    byteAt (State.construct p q l d) a = initialByte p.font a := rfl

end Sys2Proof.Machine

namespace Sys2Proof.Safety

open Sys2Proof.Machine Sys2Proof.Claims

/-! ## The invariants of R53 -/

theorem SpecInv.raised {s : State} (h : SpecInv s) (e : FatalError) : SpecInv (raised e s) :=
  { h with fault_stopped := fun _ => rfl }

theorem SpecInv.setPhase {s : State} (h : SpecInv s) (p : Phase) : SpecInv { s with phase := p } := { h with }

theorem SpecInv.decTimers {s : State} (h : SpecInv s) : SpecInv (decTimers s) :=
  { h with timers_le := ⟨by omega, by omega⟩ }

theorem SpecInv.completed {s : State} (h : SpecInv s) (i : Instr) : SpecInv (completed s i) := by
  have hk := completed_kept s i
  have hf : (Machine.completed s i).fault ≠ none → (Machine.completed s i).stopped = true := by
    rw [hk.fault, hk.stopped]
    exact h.fault_stopped
  rcases effect_wait_cases s i with ⟨x, rfl⟩ | ⟨hh, ha, ht⟩
  · exact ⟨by omega, by omega, by omega, ⟨by omega, by omega⟩, ⟨fun _ => rfl, fun _ => nofun⟩, fun _ => rfl, hf⟩
  · exact ⟨by omega, by omega, by omega, ⟨by omega, by omega⟩, ht.symm ▸ ha.symm ▸ h.target_iff,
      hh.symm ▸ ha.symm ▸ h.awaiting_halted, hf⟩

theorem SpecInv.signalRepaint {s : State} (h : SpecInv s) : SpecInv s.signalRepaint := by
  unfold State.signalRepaint
  split
  · exact { h with }
  · exact h

/-- What R53 asks of a step from `s` to `t`: its invariants in `t`, and `stopped` not back to false (R45). -/
def SpecKept (s t : State) : Prop := SpecInv t ∧ (s.stopped = true → t.stopped = true)

theorem SpecInv.hostCall {s t : State} (h : SpecInv s) (hc : HostCalls s t) : SpecKept s t := by
  cases hc with
  | same => exact ⟨h, id⟩
  | loads bytes hp hl => exact ⟨{ h with }, id⟩
  | starts hp => exact ⟨h.setPhase _, id⟩
  | stops => exact ⟨{ h with fault_stopped := fun _ => rfl }, fun _ => rfl⟩
  | setsKey k down => exact ⟨{ h with }, id⟩
  | resolves k x ha ht hp =>
    exact ⟨{ h with
      pc_le := by omega
      target_iff := ⟨fun hn => absurd rfl hn, nofun⟩
      awaiting_halted := nofun }, id⟩

theorem SpecInv.afterExec {s t : State} {left : Nat} {i : Instr} (h : SpecInv s) (hp : s.phase ≠ .exited)
    (hx : exec i s = .next t) : SpecKept s (afterExec left t) := by
  rcases afterExec_cases (left := left) hp hx with ⟨e, -, he⟩ | ⟨-, he⟩ <;> rw [he]
  · exact ⟨h.raised e, fun _ => rfl⟩
  · refine ⟨(h.completed i).signalRepaint.setPhase _, fun hs => ?_⟩
    simpa [(completed_kept s i).stopped] using hs

theorem SpecInv.coreMove {s t : State} (h : SpecInv s) (hm : CoreMoves s t) : SpecKept s t := by
  cases hm with
  | stays => exact ⟨h, id⟩
  | leaves | checks | skips | idles | noSteps => exact ⟨h.setPhase _, id⟩
  | ends =>
    rcases endCycle_cases s with he | he <;> rw [he]
    · exact ⟨h.decTimers.setPhase _, id⟩
    · exact ⟨h.setPhase _, id⟩
  | raises left e => exact ⟨h.raised e, fun _ => rfl⟩
  | runs left i u hn hi hx => exact h.afterExec (phase_ne_exited_of_stepsNext hn) hx

theorem SpecInv.step {s t : State} (h : SpecInv s) (hs : step s = .next t) : SpecKept s t := by
  have hp : SpecInv { s with plan := s.plan.tail } := { h with }
  rcases step_cases hs with ⟨-, rfl⟩ | ⟨-, rfl⟩ | ⟨c, -, hc⟩ | ⟨-, hm⟩
  · exact ⟨h, id⟩
  · exact ⟨hp, id⟩
  · exact hp.hostCall (hostCall_cases hc)
  · exact hp.coreMove hm

theorem specInv_construct (p : Config.Params) (q l : Bool) (d : Seed) : SpecInv (State.construct p q l d) := by
  refine ⟨by omega, by omega, by omega, ⟨by omega, by omega⟩, ?_, nofun, fun hf => absurd rfl hf⟩
  exact ⟨fun hn => absurd rfl hn, nofun⟩

/-! ## The model's invariant -/

/-- A machine whose loop has not exited has recorded no error (R371). -/
theorem Inv.fault_none {s : State} (h : Inv s) (hp : s.phase ≠ .exited) : s.fault = none :=
  Decidable.of_not_not fun hf => hp (h.fault_exited hf)

/-- The loop moves to another phase: none but an exit of a stopped machine, and never back before `run`. -/
theorem Inv.setPhase {s : State} (h : Inv s) {p : Phase} (hs : s.phase ≠ .exited) (hc : p ≠ .constructed)
    (he : p = .exited → s.stopped = true) (hl : ∀ left, p = .inCycle left → left < s.params.stepsPerTick) :
    Inv { s with phase := p } :=
  { h with
    wait_run := fun _ => hc
    steps_ended := fun ht => ⟨(h.steps_ended ht).1, (h.steps_ended ht).2.1, hc⟩
    fault_exited := fun hf => absurd (h.fault_none hs) hf
    exited_stopped := he
    left_lt := hl }

theorem Inv.decTimers {s : State} (h : Inv s) : Inv (decTimers s) := { h with }

/-- Where a step is not idle, no wait is pending and the steps have not ended (R141, R39; log 19). -/
theorem Inv.no_wait {s : State} (h : Inv s) (hi : stepIdle s = false) :
    s.halted = false ∧ s.awaitingKey = false ∧ s.stepsEnded = false :=
  have ⟨hh, he⟩ := stepIdle_false.1 hi
  ⟨hh, h.halted_eq ▸ hh, he⟩

/-- Only a step that is not idle raises, so no wait is pending in the stopped machine (R371). -/
theorem Inv.raised {s : State} {e : FatalError} (h : Inv s) (hi : stepIdle s = false) (he : Raisable e) :
    Inv (raised e s) := by
  obtain ⟨-, -, hn⟩ := h.no_wait hi
  exact { h with
    wait_run := fun _ => nofun
    steps_ended := fun ht => absurd (hn.symm.trans ht) nofun
    fault_stopped := fun _ => rfl
    fault_exited := fun _ => rfl
    fault_kind := fun n hf => he n (Option.some.inj hf)
    exited_stopped := fun _ => rfl
    left_lt := fun _ => nofun }

/-- An instruction that completes begins a wait with room for its advance, or it leaves the machine out of one. -/
theorem Inv.completed_wait {s : State} {i : Instr} (h : Inv s) (hi : stepIdle s = false) (he : errorOf s i = none) :
    (completed s i).awaitingKeyTarget.isSome = (completed s i).awaitingKey ∧
      (completed s i).halted = (completed s i).awaitingKey ∧
      ((completed s i).awaitingKey = true → (completed s i).pc.toNat + 2 ≤ 0xFFF) := by
  rcases effect_wait_cases s i with ⟨x, rfl⟩ | ⟨hh, ha, ht⟩
  · refine ⟨rfl, rfl, fun _ => ?_⟩
    simpa [completed, target, effect] using le_of_pcError_none he
  · obtain ⟨-, hn, -⟩ := h.no_wait hi
    refine ⟨?_, ?_, ?_⟩
    · exact ht.symm ▸ ha.symm ▸ h.target_iff
    · exact hh.symm ▸ ha.symm ▸ h.halted_eq
    · exact fun hw => absurd (hn.symm.trans (ha.symm.trans hw)) nofun

theorem Inv.left_lt_of_stepsNext {s : State} {left : Nat} (h : Inv s) (hn : StepsNext s left) :
    left < s.params.stepsPerTick := by
  rcases hn with hp | ⟨-, hs⟩ | ⟨-, -, hs⟩
  · have := h.left_lt _ hp; omega
  · omega
  · omega

/-- A completed instruction with its repaint served, inside the cycle. -/
theorem Inv.completed {s : State} {left : Nat} {i : Instr} (h : Inv s) (hn : StepsNext s left)
    (hi : stepIdle s = false) (he : errorOf s i = none) :
    Inv { (completed s i).signalRepaint with phase := .inCycle left } := by
  have hk := completed_kept s i
  have hf : (Machine.completed s i).fault = none := hk.fault.trans (h.fault_none (phase_ne_exited_of_stepsNext hn))
  obtain ⟨ht, hh, hw⟩ := h.completed_wait hi he
  obtain ⟨-, -, hn'⟩ := h.no_wait hi
  constructor
  case mem_wf => simpa [hk.params] using wf_effect_mem he h.mem_wf
  case target_iff => simpa using ht
  case halted_eq => simpa using hh
  case wait_pc => simpa using hw
  case wait_run => exact fun _ => nofun
  case steps_ended => simp [hk.stepsEnded, hn']
  case fault_stopped => simp [hf]
  case fault_exited => simp [hf]
  case fault_kind => simp [hf]
  case exited_stopped => exact nofun
  case no_repaint => simp
  case surface_eq => simpa using surface_signalRepaint_completed i h.surface_eq
  case display => simpa [hk.params] using displaySound_effect i h.display
  case steps_pos => simpa [hk.params] using h.steps_pos
  case left_lt => rintro _ ⟨⟩; simpa [hk.params] using h.left_lt_of_stepsNext hn

theorem Inv.coreMove {s t : State} (h : Inv s) (hm : CoreMoves s t) : Inv t := by
  cases hm with
  | stays => exact h
  | leaves hp hs => exact h.setPhase (by simp [hp]) nofun (fun _ => hs) (fun _ => nofun)
  | checks hp =>
    refine h.setPhase (by simp [hp]) ?_ ?_ ?_ <;> cases s.stopped <;> simp
  | skips hp hh =>
    exact h.setPhase (by rcases hp with hp | hp <;> simp [hp]) nofun nofun (fun _ => nofun)
  | ends hp =>
    rcases endCycle_cases s with he | he <;> rw [he]
    · exact h.decTimers.setPhase (by simp [hp]) nofun nofun (fun _ => nofun)
    · exact h.setPhase (by simp [hp]) nofun nofun (fun _ => nofun)
  | idles left hn hi =>
    exact h.setPhase (phase_ne_exited_of_stepsNext hn) nofun nofun (by rintro _ ⟨⟩; exact h.left_lt_of_stepsNext hn)
  | noSteps hz hh => exact absurd h.steps_pos (by omega)
  | raises left e hn hi he => exact h.raised hi he
  | runs left i u hn hi hx =>
    rcases afterExec_cases (left := left) (phase_ne_exited_of_stepsNext hn) hx with ⟨e, he, hu⟩ | ⟨he, hu⟩ <;> rw [hu]
    · exact h.raised hi he
    · exact h.completed hn hi he

theorem Inv.hostCall {s t : State} (h : Inv s) (hc : HostCalls s t) : Inv t := by
  cases hc with
  | same => exact h
  | loads bytes hp hl =>
    have hb : Config.programOrigin + bytes.length ≤ 4096 := by
      change bytes.length ≤ 4096 - 512 at hl
      change 512 + bytes.length ≤ 4096
      omega
    exact { h with mem_wf := wf_storedAt bytes hb h.mem_wf }
  | starts hp => exact h.setPhase (by simp [hp]) nofun nofun (fun _ => nofun)
  | stops =>
    exact { h with
      steps_ended := fun he => ⟨rfl, (h.steps_ended he).2⟩
      fault_stopped := fun _ => rfl
      exited_stopped := fun _ => rfl }
  | setsKey k down => exact { h with }
  | resolves k x ha ht hp =>
    have hs : s.stepsEnded = false := Bool.eq_false_of_not_eq_true fun he =>
      absurd (ha.symm.trans (h.steps_ended he).2.1) nofun
    exact { h with
      target_iff := rfl
      halted_eq := rfl
      wait_pc := nofun
      wait_run := nofun
      steps_ended := fun he => ⟨by simpa [hs] using he, rfl, h.wait_run ha⟩ }

theorem Inv.step {s t : State} (h : Inv s) (hs : step s = .next t) : Inv t := by
  have hp : Inv { s with plan := s.plan.tail } := { h with }
  rcases step_cases hs with ⟨-, rfl⟩ | ⟨-, rfl⟩ | ⟨c, -, hc⟩ | ⟨-, hm⟩
  · exact h
  · exact hp
  · exact hp.hostCall (hostCall_cases hc)
  · exact hp.coreMove hm

theorem Inv.construct {p : Config.Params} (hw : 1 ≤ p.displayW) (hh : 1 ≤ p.displayH) (hs : 1 ≤ p.stepsPerTick)
    (q l : Bool) (d : Seed) : Inv (State.construct p q l d) where
  mem_wf := rfl
  target_iff := rfl
  halted_eq := rfl
  wait_pc := nofun
  wait_run := nofun
  steps_ended := nofun
  fault_stopped hf := absurd rfl hf
  fault_exited hf := absurd rfl hf
  fault_kind _ := nofun
  exited_stopped := nofun
  no_repaint := rfl
  surface_eq := rfl
  display := displaySound_clear hw hh
  steps_pos := hs
  left_lt _ := nofun

end Sys2Proof.Safety

namespace Sys2Proof.Proofs

open Sys2Proof.Machine Sys2Proof.Safety Sys2Proof.Claims

/-- Settles O48, by `exec_cases`: an error touches none of the four, and `effect` has their only writers. -/
theorem stackSeedAndMemoryWriters : Obligations.StackSeedAndMemoryWriters := by
  intro i s t h
  rcases exec_cases h with ⟨e, -, rfl⟩ | ⟨-, rfl⟩
  · exact ⟨fun _ => rfl, fun _ _ => rfl, fun _ => rfl, fun _ _ => rfl⟩
  · exact ⟨effect_stack, effect_sp, effect_rngSeed, effect_mem⟩

/-- Settles O49, by `exec_cases`: an error touches none of these fields, and `effect` has their only writers. -/
theorem controlFieldWriters : Obligations.ControlFieldWriters := by
  intro i s t h
  rcases exec_cases h with ⟨e, -, rfl⟩ | ⟨-, rfl⟩
  · exact ⟨fun _ => ⟨rfl, rfl, rfl⟩, fun _ _ => ⟨rfl, rfl⟩, fun _ => rfl, fun _ => rfl, rfl, rfl, rfl, rfl, rfl, rfl,
      rfl, rfl⟩
  · have hk := completed_kept s i
    exact ⟨effect_wait, effect_display, effect_DT, effect_ST, hk.shiftQuirk, hk.loadStoreQuirk, hk.key, hk.params,
      hk.surface, hk.plan, hk.hostGrants, hk.stepsEnded⟩

/-- Settles O50, by `exec_cases`: an error leaves the registers alone, and an effect that cannot write VF leaves VF. -/
theorem onlyFlagWritersTouchVf : Obligations.OnlyFlagWritersTouchVf := by
  intro i s t hi h
  rcases exec_cases h with ⟨e, -, rfl⟩ | ⟨-, rfl⟩
  · rfl
  · exact readV_effect_vf hi

/-- Settles O55, by the cases of a step: only a raise writes `fault`, and it sets `stopped`; the wait fields are written
together, by FX0A and by the resolution. -/
theorem specInvariantsAreKept : Obligations.SpecInvariantsAreKept :=
  ⟨specInv_construct .., fun _ _ h hs => h.step hs⟩

/-- Settles O57, by the cases of a step: each kind of move has a lemma that it keeps `Inv`. -/
theorem stepKeepsTheInvariant : Obligations.StepKeepsTheInvariant := fun _ _ h hs => h.step hs

/-- Settles O54: the constructed memory lists no cell, so a read gives the construction contents. -/
theorem resetValues : Obligations.ResetValues := by
  refine ⟨fun p q l d => ⟨readV_construct p q l d, rfl, rfl, fun j hj => ?_, rfl, rfl, rfl, fun a h => ?_,
    fun a h => ?_, rfl, rfl, rfl, rfl, rfl, rfl, rfl, rfl, rfl, keyIsDown_construct p q l d, pixel_clear p, displayWf_clear p⟩, rfl⟩
  · simp [State.construct, hj]
  · exact (byteAt_construct p q l d a).trans (dif_pos h)
  · exact (byteAt_construct p q l d a).trans (dif_neg (Nat.not_lt.2 h))

/-- Settles O56: construction meets the invariant for every display and cycle of size at least 1. -/
theorem resetMeetsTheInvariant : Obligations.ResetMeetsTheInvariant :=
  ⟨Inv.construct (by decide) (by decide) (Nat.le_add_left 1 _) .., rfl, rfl, rfl, rfl, rfl, rfl, rfl, rfl, rfl⟩

end Sys2Proof.Proofs

namespace Sys2Proof.Machine

open Sys2Proof.Safety

/-! ## The canonical form of memory (log 11) -/

/-- The cells of a canonical memory are exactly the addresses that read as something else than the construction
contents, each with its byte. -/
theorem Memory.mem_iff_readByte {f : Config.Font} {m : Memory} (h : Memory.wf f m = true) (a : Nat) (b : Byte) :
    (a, b) ∈ m ↔ readByte f m a = b ∧ b ≠ initialByte f a := by
  induction m with
  | nil => simpa using fun hb => hb ▸ rfl
  | cons c m ih =>
    obtain ⟨k, d⟩ := c
    obtain ⟨-, hd, hm, hw⟩ := (Memory.wf_cons k d m).1 h
    rw [List.mem_cons, Prod.mk.injEq, readByte]
    by_cases hk : a = k
    · subst hk
      have hn : (a, b) ∉ m := fun hc => absurd (hm _ hc) (Nat.lt_irrefl a)
      rw [if_pos rfl]
      constructor
      · rintro (⟨-, rfl⟩ | hc)
        · exact ⟨rfl, hd⟩
        · exact absurd hc hn
      · rintro ⟨rfl, -⟩
        exact .inl ⟨rfl, rfl⟩
    · simp [hk, ih hw]

/-- The cells of a canonical memory stand in rising order of their addresses. -/
theorem Memory.pairwise_of_wf {f : Config.Font} {m : Memory} (h : Memory.wf f m = true) :
    m.Pairwise (Order.Preimage Prod.fst (· < ·)) := by
  induction m with
  | nil => exact .nil
  | cons c m ih =>
    obtain ⟨-, -, hm, hw⟩ := (Memory.wf_cons c.1 c.2 m).1 h
    exact .cons hm (ih hw)

theorem Memory.eq_of_readByte_eq {f : Config.Font} {m m' : Memory} (h : Memory.wf f m = true)
    (h' : Memory.wf f m' = true) (hr : ∀ a, readByte f m a = readByte f m' a) : m = m' :=
  (pairwise_of_wf h).eq_of_mem_iff (pairwise_of_wf h') fun c => by
    rw [Memory.mem_iff_readByte h, Memory.mem_iff_readByte h', hr]

/-! ## Words in memory (R75) -/

/-- The big-endian pair as a number (R75, R76). -/
theorem toNat_append_bytes (hi lo : Byte) : (hi ++ lo).toNat = 256 * hi.toNat + lo.toNat := by
  rw [BitVec.toNat_append, ← Nat.shiftLeft_add_eq_or_of_lt lo.isLt, Nat.shiftLeft_eq]
  omega

theorem wordOfBytes_bytesOfWord (op : Word) : wordOfBytes (op.extractLsb' 8 8) (op.extractLsb' 0 8) = op := by
  have := op.isLt
  apply BitVec.eq_of_toNat_eq
  rw [wordOfBytes, toNat_append_bytes, BitVec.extractLsb'_toNat, BitVec.extractLsb'_toNat]
  simp only [Nat.shiftRight_eq_div_pow]
  omega

/-- The bytes of a table word decode as the word does (R75). -/
theorem decode_of_decodeTableWord {n w : Nat} {i : Instr} (h : decodeTableWord n w = some i) :
    decode (tableWord n w) = .ok i := by
  simp only [decodeTableWord, bytesOfWord, decodeBytes, wordOfBytes_bytesOfWord] at h
  cases hd : decode (tableWord n w) with
  | ok j => simpa [hd] using h
  | error e => simp [hd] at h

/-- Where two bytes or more are stored, the word at the first address is the first two of them. -/
theorem word_setMem_storedAt {s : State} {a : Nat} (bs : List Byte) (ha : a + bs.length ≤ 4096)
    (h : Memory.wf s.params.font s.mem = true) (hl : 1 < bs.length) :
    byteAt (s.setMem (storedAt s a bs)) a ++ byteAt (s.setMem (storedAt s a bs)) (a + 1) = bs[0] ++ bs[1] := by
  rw [byteAt_setMem bs ha h hl]
  exact congrArg (· ++ bs[1]) (byteAt_setMem bs ha h (k := 0) (by omega))

/-! ## A state made ready to fetch, and a word placed there (log 14) -/

/-- From `fetchPhase` the core's next move is a `step()` (R144, R147). -/
theorem exists_stepsNext_fetchPhase (s : State) : ∃ left, StepsNext { s with phase := fetchPhase s } left := by
  unfold fetchPhase
  split
  next n hp hn =>
    cases hs : s.stopped with
    | true => exact ⟨0, .inl rfl⟩
    | false => exact ⟨n, .inr (.inr ⟨rfl, rfl, hn⟩)⟩
  next n hp hn => exact ⟨n, .inr (.inl ⟨rfl, hn⟩)⟩
  next left hp => exact ⟨left, .inl rfl⟩
  next => exact ⟨0, .inl rfl⟩

@[simp] theorem readyToFetch_mem (s : State) : (readyToFetch s).mem = s.mem := by
  unfold readyToFetch; split <;> rfl

@[simp] theorem readyToFetch_params (s : State) : (readyToFetch s).params = s.params := by
  unfold readyToFetch; split <;> rfl

@[simp] theorem readyToFetch_halted (s : State) : (readyToFetch s).halted = false := by
  cases h : s.halted <;> simp [readyToFetch, h]

theorem readyToFetch_pc_even (s : State) : (readyToFetch s).pc.toNat % 2 = 0 := by
  have hand : (readyToFetch s).pc = s.pc &&& 0xFFE := by unfold readyToFetch; split <;> rfl
  have h0 : (readyToFetch s).pc.getLsbD 0 = false := by simp [hand]
  rw [← BitVec.testBit_toNat, Nat.testBit_zero] at h0
  simpa using h0

theorem withFetchWord_eq_setMem (s : State) (n w : Nat) :
    s.withFetchWord n w = (readyToFetch s).setMem
      (storedAt (readyToFetch s) (readyToFetch s).pc.toNat (bytesOfWord (tableWord n w))) := by
  simp only [State.withFetchWord, State.setMem, storedAt, readyToFetch_mem, readyToFetch_params]

/-- The word placed stands at the pc (R75). -/
theorem word_withFetchWord {s : State} (n w : Nat) (h : Memory.wf s.params.font s.mem = true) :
    byteAt (s.withFetchWord n w) (s.withFetchWord n w).pc.toNat ++
      byteAt (s.withFetchWord n w) ((s.withFetchWord n w).pc.toNat + 1) = tableWord n w := by
  have he := readyToFetch_pc_even s
  have hl : (bytesOfWord (tableWord n w)).length = 2 := rfl
  rw [withFetchWord_eq_setMem]
  exact (word_setMem_storedAt _ (by omega) (by simpa using h) (by omega)).trans (wordOfBytes_bytesOfWord _)

/-- The turn after a word is placed is the core's, and its move is a `step()`. -/
theorem step_withFetchWord (s : State) (n w : Nat) :
    ∃ left, step (s.withFetchWord n w) = instrStep left (s.withFetchWord n w) := by
  obtain ⟨left, hn⟩ : ∃ left, StepsNext (s.withFetchWord n w) left := exists_stepsNext_fetchPhase _
  refine ⟨left, (step_coresTurn (.inr ⟨rfl, fun _ => rfl⟩)).trans ?_⟩
  exact coreMove_stepsNext hn (readyToFetch_halted s)

/-- A placed word that decodes is the instruction that the next step runs (R141). -/
theorem step_withFetchWord_runs {s : State} {n w : Nat} {i : Instr} (h : Memory.wf s.params.font s.mem = true)
    (hd : decode (tableWord n w) = .ok i) : ∃ left, step (s.withFetchWord n w) =
      mapNext (afterExec left) (exec i (s.withFetchWord n w)) := by
  obtain ⟨left, hs⟩ := step_withFetchWord s n w
  refine ⟨left, hs.trans (instrStep_runs ?_ (readyToFetch_pc_even s) ?_)⟩
  · exact stepIdle_false.2 ⟨readyToFetch_halted s, rfl⟩
  · rwa [word_withFetchWord n w h]

end Sys2Proof.Machine

namespace Sys2Proof.Proofs

open Sys2Proof.Machine Sys2Proof.Safety Sys2Proof.Claims

/-- Settles O38, by the two lemmas about `fetch` and the big-endian pair as a number. -/
theorem fetchIsBigEndianAtEvenPc : Obligations.FetchIsBigEndianAtEvenPc :=
  fun _ => ⟨fetch_odd, fun he => ⟨_, fetch_even he, toNat_append_bytes ..⟩⟩

/-- Settles O53: a canonical memory lists, in rising order, exactly the cells that its reads determine. -/
theorem canonicalMemoryIsUnique : Obligations.CanonicalMemoryIsUnique :=
  fun _ _ _ => Memory.eq_of_readByte_eq

/-- Settles O52: the store begins at I, which is the pc of the next fetch, and its first two bytes are V0 and V1. -/
theorem nextFetchSeesTheStore : Obligations.NextFetchSeesTheStore := by
  intro x s hm hI hx hin he
  have hp : s.pc.toNat + 2 ≤ 0xFFF := by omega
  refine ⟨_, (execStore_in x hin).trans (advance_in _ hp), ?_⟩
  have hl := length_blockRegs s x
  rw [fetch_even (by rw [toNat_setPc _ hp]; omega), toNat_setPc _ hp, ← hI]
  simp only [byteAt_setPc, byteAt_setI]
  rw [word_setMem_storedAt (blockRegs s x) (by omega) hm (by omega),
    getElem_blockRegs s x _ (by decide), getElem_blockRegs s x _ (by decide)]
  rfl

/-- Settles O60: the state made ready has a `step()` as its next move, and fetches the word placed at its pc. -/
theorem placedWordRunsNext : Obligations.PlacedWordRunsNext :=
  fun _ _ _ hm hd => step_withFetchWord_runs hm (decode_of_decodeTableWord hd)

end Sys2Proof.Proofs

namespace Sys2Proof

/-! ## A word put together again from its fields (R102, R103) -/

theorem encodeNNN_fields {o : Nibble} {op : Word} (ho : (fieldOp op).toNat = o.toNat) :
    encodeNNN o (fieldNNN op) = op := by
  rw [fieldOp_toNat] at ho
  apply BitVec.eq_of_toNat_eq
  rw [encodeNNN_toNat, fieldNNN_toNat]
  omega

theorem encodeXNN_fields {o : Nibble} {op : Word} (ho : (fieldOp op).toNat = o.toNat) {b : Byte}
    (hb : fieldNN op = b) : encodeXNN o (fieldX op) b = op := by
  rw [fieldOp_toNat] at ho
  apply BitVec.eq_of_toNat_eq
  rw [encodeXNN_toNat, fieldX_toNat, ← hb, fieldNN_toNat]
  omega

theorem encodeXYN_fields {o : Nibble} {op : Word} (ho : (fieldOp op).toNat = o.toNat) {n : Nibble}
    (hn : (fieldN op).toNat = n.toNat) : encodeXYN o (fieldX op) (fieldY op) n = op := by
  rw [fieldOp_toNat] at ho
  rw [fieldN_toNat] at hn
  apply BitVec.eq_of_toNat_eq
  rw [encodeXYN_toNat, fieldX_toNat, fieldY_toNat]
  omega

/-! ## What the decoder answers

Said once for all 65536 words: an instruction that encodes to the word, or the refusal of a word of R106's classes. -/

/-- The six classes of illegal words, on the fields of the word (R106). -/
def IllegalWord (op : Word) : Prop :=
  ((fieldOp op).toNat = 0x0 ∧ op ≠ 0x00E0 ∧ op ≠ 0x00EE) ∨
  ((fieldOp op).toNat = 0x5 ∧ fieldN op ≠ 0) ∨
  ((fieldOp op).toNat = 0x8 ∧ (fieldN op).toNat ∈ [0x8, 0x9, 0xA, 0xB, 0xC, 0xD, 0xF]) ∨
  ((fieldOp op).toNat = 0x9 ∧ fieldN op ≠ 0) ∨
  ((fieldOp op).toNat = 0xE ∧ fieldNN op ∉ [0x9E, 0xA1]) ∨
  ((fieldOp op).toNat = 0xF ∧ fieldNN op ∉ [0x07, 0x0A, 0x15, 0x18, 0x1E, 0x29, 0x33, 0x55, 0x65])

/-- The classes as R106 lists them, on the word as a number. -/
theorem illegalWord_iff (op : Word) : IllegalWord op ↔
    (op.toNat ≤ 0x0FFF ∧ op.toNat ≠ 0x00E0 ∧ op.toNat ≠ 0x00EE) ∨
    (op.toNat / 0x1000 = 0x5 ∧ op.toNat % 16 ≠ 0) ∨
    (op.toNat / 0x1000 = 0x8 ∧ op.toNat % 16 ∈ [0x8, 0x9, 0xA, 0xB, 0xC, 0xD, 0xF]) ∨
    (op.toNat / 0x1000 = 0x9 ∧ op.toNat % 16 ≠ 0) ∨
    (op.toNat / 0x1000 = 0xE ∧ op.toNat % 256 ∉ [0x9E, 0xA1]) ∨
    (op.toNat / 0x1000 = 0xF ∧ op.toNat % 256 ∉ [0x07, 0x0A, 0x15, 0x18, 0x1E, 0x29, 0x33, 0x55, 0x65]) := by
  have h0 : op.toNat / 4096 = 0 ↔ op.toNat ≤ 0xFFF := by omega
  simp only [IllegalWord, ne_eq, List.mem_cons, List.not_mem_nil, ← BitVec.toNat_inj (n := 16),
    ← BitVec.toNat_inj (n := 4), ← BitVec.toNat_inj (n := 8), fieldOp_toNat, fieldN_toNat, fieldNN_toNat, h0]
  rfl

/-- What an answer of the decoder says of its word. -/
def DecodeAnswer (op : Word) : Except DecodeError Instr → Prop
  | .ok i => encode i = op
  | .error e => e = .unrecognized op ∧ IllegalWord op

theorem decode0_answer {op : Word} (ho : (fieldOp op).toNat = 0x0) : DecodeAnswer op (decode0 op) := by
  unfold decode0
  split
  case isTrue h => exact h.symm
  split
  case isTrue h => exact h.symm
  case isFalse hc hr => exact ⟨rfl, .inl ⟨ho, hc, hr⟩⟩

theorem decode8_answer {op : Word} (ho : (fieldOp op).toNat = 0x8) : DecodeAnswer op (decode8 op) := by
  unfold decode8
  split
  case h_10 =>
    have hlt := (fieldN op).isLt
    refine ⟨rfl, .inr (.inr (.inl ⟨ho, ?_⟩))⟩
    simp only [List.mem_cons, List.not_mem_nil]
    grind
  all_goals exact encodeXYN_fields ho ‹_›

theorem decodeE_answer {op : Word} (ho : (fieldOp op).toNat = 0xE) : DecodeAnswer op (decodeE op) := by
  unfold decodeE
  iterate 2
    split
    · exact encodeXNN_fields ho ‹_›
  exact ⟨rfl, .inr (.inr (.inr (.inr (.inl ⟨ho, by simp_all⟩))))⟩

theorem decodeF_answer {op : Word} (ho : (fieldOp op).toNat = 0xF) : DecodeAnswer op (decodeF op) := by
  unfold decodeF
  iterate 9
    split
    · exact encodeXNN_fields ho ‹_›
  exact ⟨rfl, .inr (.inr (.inr (.inr (.inr ⟨ho, by simp_all⟩))))⟩

/-- Along the leading nibbles (R101): the fields that a nibble's rows take give back the word in the rows' format. -/
theorem decode_answer (op : Word) : DecodeAnswer op (decode op) := by
  unfold decode
  split
  case h_1 ho => exact decode0_answer ho
  case h_9 ho => exact decode8_answer ho
  case h_15 ho => exact decodeE_answer ho
  case h_16 =>
    have hlt := (fieldOp op).isLt
    exact decodeF_answer (by grind)
  case h_2 ho | h_3 ho | h_11 ho | h_12 ho => exact encodeNNN_fields ho
  case h_4 ho | h_5 ho | h_7 ho | h_8 ho | h_13 ho => exact encodeXNN_fields ho rfl
  case h_14 ho => exact encodeXYN_fields ho rfl
  case h_6 ho =>
    split
    case isTrue hn => exact encodeXYN_fields ho (congrArg _ hn)
    case isFalse hn => exact ⟨rfl, .inr (.inl ⟨ho, hn⟩)⟩
  case h_10 ho =>
    split
    case isTrue hn => exact encodeXYN_fields ho (congrArg _ hn)
    case isFalse hn => exact ⟨rfl, .inr (.inr (.inr (.inl ⟨ho, hn⟩)))⟩

theorem encode_of_decode {op : Word} {i : Instr} (h : decode op = .ok i) : encode i = op := by
  have ha := decode_answer op
  rwa [h] at ha

theorem decode_error {op : Word} {e : DecodeError} (h : decode op = .error e) :
    e = .unrecognized op ∧ IllegalWord op := by
  have ha := decode_answer op
  rwa [h] at ha

theorem decode_encode (i : Instr) : decode (encode i) = .ok i := by
  cases i
  case cls | ret => rfl
  case jp | call | ldI | jpV0 => simp [encode, decode]
  case seImm | sneImm | ldImm | addImm | rnd => simp [encode, decode]
  case seReg | sneReg | drw => simp [encode, decode]
  case ldReg | orReg | andReg | xorReg | addReg | subReg | shr | subn | shl => simp [encode, decode, decode8]
  case skp | sknp => simp [encode, decode, decodeE]
  case ldFromDt | ldKey | ldDt | ldSt | addI | ldF | ldB | store | load => simp [encode, decode, decodeF]

theorem decode_eq_ok_iff (i : Instr) (op : Word) : decode op = .ok i ↔ encode i = op :=
  ⟨encode_of_decode, fun h => h ▸ decode_encode i⟩

theorem decode_of_illegalWord {op : Word} (h : IllegalWord op) : decode op = .error (.unrecognized op) := by
  rcases h with ⟨ho, hc, hr⟩ | ⟨ho, hn⟩ | ⟨ho, hn⟩ | ⟨ho, hn⟩ | ⟨ho, hb⟩ | ⟨ho, hb⟩
  · simp_all [decode, decode0]
  · simp_all [decode]
  · simp only [List.mem_cons, List.not_mem_nil, or_false] at hn
    rcases hn with hn | hn | hn | hn | hn | hn | hn <;> simp [decode, ho, decode8, hn]
  · simp_all [decode]
  · simp_all [decode, decodeE]
  · simp_all [decode, decodeF]

theorem decode_eq_error_iff (op : Word) : decode op = .error (.unrecognized op) ↔ IllegalWord op :=
  ⟨fun h => (decode_error h).2, decode_of_illegalWord⟩

/-! ## The decoder against the table's rows (R105) -/

/-- Bits that a mask takes in full are the pattern's. -/
theorem extractLsb'_of_and_eq {op m p : Word} {a n : Nat} (h : op &&& m = p)
    (hm : m.extractLsb' a n = BitVec.allOnes n) : op.extractLsb' a n = p.extractLsb' a n := by
  rw [← h, BitVec.extractLsb'_and, hm, BitVec.and_allOnes]

/-- A word with a row's fixed bits decodes to an instruction of that row. -/
theorem exists_decode_of_hasWord {j : Instr} {op : Word} (h : j.row.hasWord op = true) :
    ∃ i, decode op = .ok i ∧ i.row = j.row := by
  cases j <;> simp only [OpcodeRow.hasWord, Instr.row, beq_iff_eq] at h
  case cls | ret =>
    obtain rfl : op = _ := (BitVec.and_allOnes (x := op)).symm.trans h
    exact ⟨_, rfl, rfl⟩
  all_goals have ho : fieldOp op = _ := extractLsb'_of_and_eq h rfl
  case jp | call | ldI | jpV0 | seImm | sneImm | ldImm | addImm | rnd | drw => simp [decode, ho, Instr.row]
  case seReg | sneReg =>
    have hn : fieldN op = _ := extractLsb'_of_and_eq h rfl
    simp [decode, ho, hn, Instr.row]
  case ldReg | orReg | andReg | xorReg | addReg | subReg | shr | subn | shl =>
    have hn : fieldN op = _ := extractLsb'_of_and_eq h rfl
    simp [decode, ho, decode8, hn, Instr.row]
  case skp | sknp =>
    have hb : fieldNN op = _ := extractLsb'_of_and_eq h rfl
    simp [decode, ho, decodeE, hb, Instr.row]
  case ldFromDt | ldKey | ldDt | ldSt | addI | ldF | ldB | store | load =>
    have hb : fieldNN op = _ := extractLsb'_of_and_eq h rfl
    simp [decode, ho, decodeF, hb, Instr.row]

open Laws.OwnRow in
/-- Every instruction's word has the instruction's row, which is one of the table's: the law `OwnRow`, collected. -/
theorem ownRow : ∀ i : Instr, Statement i
  | .cls => cls | .ret => ret | .jp _ => jp _ | .call _ => call _ | .seImm .. => seImm ..
  | .sneImm .. => sneImm .. | .seReg .. => seReg .. | .ldImm .. => ldImm .. | .addImm .. => addImm ..
  | .ldReg .. => ldReg .. | .orReg .. => orReg .. | .andReg .. => andReg .. | .xorReg .. => xorReg ..
  | .addReg .. => addReg .. | .subReg .. => subReg .. | .shr .. => shr .. | .subn .. => subn .. | .shl .. => shl ..
  | .sneReg .. => sneReg .. | .ldI _ => ldI _ | .jpV0 _ => jpV0 _ | .rnd .. => rnd .. | .drw .. => drw ..
  | .skp _ => skp _ | .sknp _ => sknp _ | .ldFromDt _ => ldFromDt _ | .ldKey _ => ldKey _ | .ldDt _ => ldDt _
  | .ldSt _ => ldSt _ | .addI _ => addI _ | .ldF _ => ldF _ | .ldB _ => ldB _ | .store _ => store _
  | .load _ => load _

/-- A word belongs to one row only, since it decodes to one instruction only. -/
theorem eq_row_of_decode {op : Word} {i : Instr} (h : decode op = .ok i) {r : OpcodeRow} (hr : r ∈ opcodeRows)
    (hw : r.hasWord op = true) : r = i.row := by
  obtain ⟨j, -, rfl⟩ := List.mem_map.1 hr
  obtain ⟨k, hk, hrow⟩ := exists_decode_of_hasWord hw
  rw [h] at hk
  cases hk
  exact hrow.symm

theorem legalWord_iff (op : Word) : legalWord op = true ↔ ∃ i, decode op = .ok i := by
  rw [legalWord, List.any_eq_true]
  constructor
  · rintro ⟨r, hr, hw⟩
    obtain ⟨j, -, rfl⟩ := List.mem_map.1 hr
    exact (exists_decode_of_hasWord hw).imp fun _ => And.left
  · rintro ⟨i, hi⟩
    obtain ⟨hw, hr⟩ := ownRow i
    rw [encode_of_decode hi] at hw
    exact ⟨i.row, hr, hw⟩

theorem legalWord_eq_false_iff (op : Word) : legalWord op = false ↔ decode op = .error (.unrecognized op) := by
  rw [Bool.eq_false_iff, ne_eq, legalWord_iff]
  cases hd : decode op with
  | ok i => simp
  | error e => simp [(decode_error hd).1]

end Sys2Proof

namespace Sys2Proof.Machine

open Sys2Proof.Safety

/-! ## A step always answers (log 7, log 8) -/

/-- In a state with the invariant a key press is taken, in a wait or outside one (R332, R336; log 8). -/
theorem keyDown_total {s : State} (h : Inv s) (code : Option Key) : ∃ t, keyDown code s = .next t := by
  cases code with
  | none => exact ⟨s, rfl⟩
  | some k =>
    cases ha : s.awaitingKey with
    | false => exact ⟨_, keyDown_noWait k ha⟩
    | true =>
      obtain ⟨x, hx⟩ := Option.isSome_iff_exists.1 (h.target_iff.trans ha)
      exact ⟨_, keyDown_wait k ha hx (h.wait_pc ha)⟩

/-- A call that the host may make at this point has its effect (N2, N6, R378; log 7). -/
theorem hostCall_total {c : HostCall} {s : State} (h : Inv s)
    (hload : ∀ bytes, c = .loadProgram bytes → s.phase = .constructed)
    (hrun : c = .run → s.phase = .constructed ∨ s.phase = .exited) : ∃ t, hostCall c s = .next t := by
  cases c with
  | loadProgram bytes =>
    simp only [hostCall, hload bytes rfl]
    cases loadProgram bytes s <;> exact ⟨_, rfl⟩
  | run => rcases hrun rfl with hp | hp <;> simp only [hostCall, hp] <;> exact ⟨_, rfl⟩
  | keyDown code => exact keyDown_total h code
  | stop | keyUp code | isDone | isPaused => exact ⟨_, rfl⟩

/-- The core's move and a turn without a frame always answer, a host call where the host keeps its duties. -/
theorem step_total {s : State} (h : Inv s) (hd : HostDuty s) : ∃ t, step s = .next t := by
  rcases turn_cases s with hc | hw | hp | ⟨c, hp⟩
  · obtain ⟨t, ht, -⟩ := coreMove_moves { s with plan := s.plan.tail }
    exact ⟨t, (step_coresTurn hc).trans ht⟩
  · exact ⟨s, step_waitsForever hw⟩
  · obtain ⟨rest, hr⟩ := List.head?_eq_some_iff.1 hp
    exact ⟨{ s with plan := rest }, by simp only [step, takeTurn, hr]⟩
  · obtain ⟨rest, hr⟩ := List.head?_eq_some_iff.1 hp
    obtain ⟨hload, hrun⟩ := hd
    have hi : Inv { s with plan := rest } := { h with }
    simp only [step, takeTurn, hr]
    exact hostCall_total hi (fun _ hc => hload _ _ (hc ▸ hr)) fun hc => hrun _ (hc ▸ hr)

end Sys2Proof.Machine

namespace Sys2Proof.Proofs

open Sys2Proof.Machine Sys2Proof.Safety Sys2Proof.Claims

/-- Settles O35: `decode_answer` gives one way, over the words; `decode_encode` the other, over the instructions. -/
theorem decodeAndEncodeAgree : Obligations.DecodeAndEncodeAgree := decode_eq_ok_iff

/-- Settles O36: a word with a row's fixed bits decodes to an instruction of that row, and a decoded word has the fixed
bits of its instruction's row. -/
theorem decodeFollowsTheTable : Obligations.DecodeFollowsTheTable :=
  fun op => ⟨legalWord_iff op, legalWord_eq_false_iff op, fun _ h _ => eq_row_of_decode h⟩

/-- Settles O37: the decoder refuses exactly the classes on the fields, which are those of R106 on the number. -/
theorem illegalWordsAreTheListedClasses : Obligations.IllegalWordsAreTheListedClasses :=
  fun op => (decode_eq_error_iff op).trans (illegalWord_iff op)

/-- Settles O58, by whose turn it is: only a host call could fault, and its duties and `Inv` rule that out. -/
theorem stepNeverFaults : Obligations.StepNeverFaults := fun _ => step_total

/-- Settles O34: the ten words are what `encode` gives, and the eleventh is of R106's first class. -/
theorem sampleWordsDecode : Obligations.SampleWordsDecode :=
  ⟨decode_encode .cls, decode_encode (.jp 0x202), decode_encode (.ldImm 0 0x12), decode_encode (.shr 2 3),
    decode_encode (.ldI 0x123), decode_encode (.drw 1 2 5), decode_encode (.sknp 7), decode_encode (.ldDt 3),
    decode_encode (.ldF 10), decode_encode (.ldKey 4), decode_of_illegalWord (.inl ⟨rfl, by decide, by decide⟩)⟩

end Sys2Proof.Proofs

namespace Sys2Proof.Machine

open Sys2Proof.Safety Sys2Proof.Claims

/-! ## The core's move, phase by phase (R144, R147) -/

theorem instrStep_idle {s : State} (left : Nat) (h : stepIdle s = true) :
    instrStep left s = .next { s with phase := .inCycle left } := if_pos h

theorem coreMove_inCycle {s : State} {left : Nat} (h : s.phase = .inCycle (left + 1)) :
    coreMove s = instrStep left s := by simp only [coreMove, h]

theorem coreMove_cycleEnd {s : State} (h : s.phase = .inCycle 0) : coreMove s = .next (endCycle s) := by
  simp only [coreMove, h]

theorem coreMove_awaitFrame {s : State} (h : s.phase = .awaitFrame) : coreMove s = beginCycle s := by
  simp only [coreMove, h]

/-- A step of a cycle in progress that is idle only counts itself (R141, R146, R339). -/
theorem coreMove_inCycle_idle {s : State} {left : Nat} (hp : s.phase = .inCycle (left + 1)) (hi : stepIdle s = true) :
    coreMove s = .next { s with phase := .inCycle left } :=
  (coreMove_inCycle hp).trans (instrStep_idle left hi)

/-- A cycle that begins halted comes round to the check of the stop flag (R144). -/
theorem coreMove_awaitFrame_halted {s : State} (hp : s.phase = .awaitFrame) (hh : s.halted = true) :
    coreMove s = .next { s with phase := .checkStop } :=
  (coreMove_awaitFrame hp).trans (if_pos hh)

/-- Where the steps have ended, the next `step()` only counts itself, the first of a cycle too (R339; log 19). -/
theorem coreMove_stepsEnded {s : State} {left : Nat} (hn : StepsNext s left) (hh : s.halted = false)
    (he : s.stepsEnded = true) : coreMove s = .next { s with phase := .inCycle left } :=
  (coreMove_stepsNext hn hh).trans (instrStep_idle left (by simp [stepIdle, he]))

/-- Both checks of the stop flag, the loop's and the first one that `run` makes, exit a stopped machine (R147). -/
theorem coreMove_check_stopped {s : State} (h : s.phase = .checkStop ∨ s.phase = .constructed)
    (hs : s.stopped = true) : coreMove s = .next { s with phase := .exited } := by
  rcases h with hp | hp
  · simp only [coreMove, hp, stopCheck, hs, if_true]
  · simp only [coreMove, hp, hs, if_true]

theorem coreMove_check_running {s : State} (h : s.phase = .checkStop) (hs : s.stopped = false) :
    coreMove s = .next { s with phase := .awaitFrame } := by
  simp only [coreMove, h, stopCheck, hs, Bool.false_eq_true, if_false]

/-! ## The end of a cycle (R144, R310) -/

/-- A decrement falls by one, floored at 0 (R310). -/
theorem toNat_countDown (t : Byte) : (countDown t).toNat = t.toNat - 1 := by
  unfold countDown
  split <;> bv_omega

theorem endCycle_decrements {s : State} (h : s.halted = false ∨ s.params.timerDecAfterMidcycleHalt = true) :
    (endCycle s).DT.toNat = s.DT.toNat - 1 ∧ (endCycle s).ST.toNat = s.ST.toNat - 1 := by
  have hc : (!s.halted || s.params.timerDecAfterMidcycleHalt) = true := by simpa using h
  simp only [endCycle, hc, if_true]
  exact ⟨toNat_countDown s.DT, toNat_countDown s.ST⟩

theorem endCycle_keeps {s : State} (hh : s.halted = true) (hp : s.params.timerDecAfterMidcycleHalt = false) :
    (endCycle s).DT = s.DT ∧ (endCycle s).ST = s.ST := by
  simp [endCycle, hh, hp]

/-- A cycle's end leaves all but the timers and the phase as they are. -/
theorem endCycle_frame (s : State) :
    endCycle s = { s with DT := (endCycle s).DT, ST := (endCycle s).ST, phase := .checkStop } := by
  rcases endCycle_cases s with h | h
  · rw [h]; rfl
  · rw [h]

/-! ## The repaint after an instruction (R282) -/

theorem signalRepaint_eq (s : State) :
    s.signalRepaint =
      { s with surface := if s.repaintPending then s.fb else s.surface, repaintPending := false } := by
  unfold State.signalRepaint
  cases h : s.repaintPending with
  | true => rfl
  | false => exact congrArg (fun b => { s with repaintPending := b }) h

/-! ## No step reads the stop flag (R149) -/

theorem effect_stopCall (s : State) (i : Instr) : effect (stopCall s) i = stopCall (effect s i) := by
  cases i <;> rfl

theorem target_stopCall (s : State) (i : Instr) : target (stopCall s) i = target s i := by
  cases i <;> rfl

theorem errorOf_stopCall (s : State) (i : Instr) : errorOf (stopCall s) i = errorOf s i := by
  cases i <;> rfl

theorem completed_stopCall (s : State) (i : Instr) : completed (stopCall s) i = stopCall (completed s i) := by
  simp only [completed, effect_stopCall, target_stopCall]
  rfl

/-- Raising stops the machine anyway, and a completed instruction carries the flag along. -/
theorem exec_stopCall (i : Instr) (s : State) : exec i (stopCall s) = mapNext stopCall (exec i s) := by
  rw [exec_eq, exec_eq, errorOf_stopCall, completed_stopCall]
  cases errorOf s i <;> rfl

theorem afterExec_stopCall (left : Nat) (s : State) :
    afterExec left (stopCall s) = stopCall (afterExec left s) := by
  by_cases hp : s.phase = .exited
  · exact (if_pos hp).trans (congrArg stopCall (if_pos hp).symm)
  · rw [afterExec_running left hp, afterExec_running (s := stopCall s) left hp, signalRepaint_eq, signalRepaint_eq]
    rfl

theorem instrStep_stopCall (left : Nat) (s : State) :
    instrStep left (stopCall s) = mapNext stopCall (instrStep left s) := by
  have hi : stepIdle (stopCall s) = stepIdle s := rfl
  have hf : fetch (stopCall s) = fetch s := rfl
  unfold instrStep
  rw [hi, hf]
  split
  · rfl
  split
  · rfl
  next op _ =>
    split
    · rfl
    next i _ =>
      obtain ⟨t, ht, -⟩ := exec_answers i s
      rw [exec_stopCall, ht]
      exact congrArg _ (afterExec_stopCall left t)

theorem beginCycle_stopCall (s : State) : beginCycle (stopCall s) = mapNext stopCall (beginCycle s) := by
  have hh : (stopCall s).halted = s.halted := rfl
  have hp : (stopCall s).params = s.params := rfl
  unfold beginCycle
  rw [hh, hp]
  split
  · rfl
  split
  · rfl
  next left _ => exact instrStep_stopCall left s

/-- Where a frame is awaited or a step of a cycle is next, the core's move does not read the stop flag. -/
theorem coreMove_stopCall {s : State} (h : s.phase = .awaitFrame ∨ ∃ left, s.phase = .inCycle (left + 1)) :
    coreMove (stopCall s) = mapNext stopCall (coreMove s) := by
  rcases h with hp | ⟨left, hp⟩
  · rw [coreMove_awaitFrame hp, coreMove_awaitFrame (s := stopCall s) hp]
    exact beginCycle_stopCall s
  · rw [coreMove_inCycle hp, coreMove_inCycle (s := stopCall s) hp]
    exact instrStep_stopCall left s

/-! ## The host's turns and calls (R148, R151, R378) -/

theorem step_call {s : State} {c : HostCall} {rest : List HostMove} (h : s.plan = .call c :: rest) :
    step s = hostCall c { s with plan := rest } := by simp only [step, takeTurn, h]

theorem step_withholdFrame {s : State} {rest : List HostMove} (h : s.plan = .withholdFrame :: rest) :
    step s = .next { s with plan := rest } := by simp only [step, takeTurn, h]

/-- A state that a step leaves as it is stays so over any number of steps. -/
theorem run_of_step_self {s : State} (h : step s = .next s) (n : Nat) :
    Host.Core.run Sys2Proof.core n s = .next s := by
  induction n with
  | zero => rfl
  | succ n ih =>
    have hs : Sys2Proof.core.step s = .next s := h
    simp only [Host.Core.run, hs, ih]

theorem waitsForever_of_plan_nil {s : State} (hp : s.plan = []) (hg : s.hostGrants = false)
    (hw : s.phase = .constructed ∨ s.phase = .awaitFrame) : WaitsForever s :=
  ⟨hp, by simpa [waitsForHost] using hw, hg⟩

theorem hostCall_run_constructed {s : State} (h : s.phase = .constructed) :
    hostCall .run s = .next { s with phase := .checkStop } := by simp only [hostCall, h]

theorem hostCall_run_exited {s : State} (h : s.phase = .exited) : hostCall .run s = .next s := by
  simp only [hostCall, h]

/-- A second `run` while the loop runs stops by name (N6; log 7). -/
theorem hostCall_run_inLoop {s : State} (hc : s.phase ≠ .constructed) (he : s.phase ≠ .exited) :
    hostCall .run s = .fault .secondRun := by
  cases hp : s.phase with
  | constructed => exact absurd hp hc
  | exited => exact absurd hp he
  | checkStop | awaitFrame | inCycle => simp only [hostCall, hp]

theorem hostCall_loadProgram_ok {s t : State} {bytes : List Byte} (hp : s.phase = .constructed)
    (hl : loadProgram bytes s = .ok t) : hostCall (.loadProgram bytes) s = .next t := by
  simp only [hostCall, hp, hl]

/-- A program that does not fit is not loaded at all (R383). -/
theorem hostCall_loadProgram_error {s : State} {bytes : List Byte} {e : FatalError} (hp : s.phase = .constructed)
    (hl : loadProgram bytes s = .error e) : hostCall (.loadProgram bytes) s = .next s := by
  simp only [hostCall, hp, hl]

/-- A `load_program` after `run` stops by name (N2; log 7). -/
theorem hostCall_loadProgram_afterRun {s : State} (bytes : List Byte) (h : s.phase ≠ .constructed) :
    hostCall (.loadProgram bytes) s = .fault .loadAfterRun := by
  cases hp : s.phase with
  | constructed => exact absurd hp h
  | exited | checkStop | awaitFrame | inCycle => simp only [hostCall, hp]

/-- The calls that answer nothing but that they are done (R378). -/
theorem hostReply_done {s : State} {c : HostCall}
    (h : c = .run ∨ c = .stop ∨ ∃ code, c = .keyDown code ∨ c = .keyUp code) : hostReply c s = .done := by
  rcases h with rfl | rfl | ⟨code, rfl | rfl⟩ <;> rfl

end Sys2Proof.Machine

namespace Sys2Proof.Proofs

open Sys2Proof.Machine Sys2Proof.Safety Sys2Proof.Claims

/-- Settles O42, by the cases of `endCycle` and of the check of the stop flag. -/
theorem cycleEndDecrementsTheTimers : Obligations.CycleEndDecrementsTheTimers := by
  refine ⟨fun s hc hp => ?_, fun s hc => ⟨fun hp hs => ?_, fun hp hs => ?_⟩⟩
  · exact ⟨_, (step_coresTurn hc).trans (coreMove_cycleEnd hp), fun h => endCycle_decrements h,
      fun hh hd => endCycle_keeps hh hd, rfl, endCycle_frame _⟩
  · exact (step_coresTurn hc).trans (coreMove_check_stopped hp hs)
  · exact (step_coresTurn hc).trans (coreMove_check_running hp hs)

/-- Settles O43: the core's turn and its move commute with `stopCall`. -/
theorem stepIgnoresTheStopFlag : Obligations.StepIgnoresTheStopFlag := by
  intro s hc hp
  have hc' : CoresTurn (stopCall s) := hc
  calc step (stopCall s)
      = coreMove (stopCall { s with plan := s.plan.tail }) := step_coresTurn hc'
    _ = mapNext stopCall (coreMove { s with plan := s.plan.tail }) := coreMove_stopCall (hp.imp_left And.left)
    _ = mapNext stopCall (step s) := by rw [step_coresTurn hc]

/-- Settles O44: one equation per kind of turn and per call; a wait for a host that never grants is a fixed point. -/
theorem hostCallsTakeTheirTurn : Obligations.HostCallsTakeTheirTurn := by
  intro s
  refine ⟨fun _ _ => step_call, fun _ => step_withholdFrame, fun hp hg hw => ?_, fun _ => ⟨rfl, rfl⟩, rfl, rfl, rfl,
    hostCall_run_constructed, hostCall_run_exited, hostCall_run_inLoop,
    fun bytes => ⟨fun hp => ?_, hostCall_loadProgram_afterRun bytes⟩, rfl, rfl, fun _ => hostReply_done⟩
  · exact run_of_step_self (step_waitsForever (waitsForever_of_plan_nil hp hg hw))
  · split
    next hl => exact hostCall_loadProgram_ok hp hl
    next hl => exact hostCall_loadProgram_error hp hl

/-- Settles O39: the core's turn gives `coreMove`, which is `instrStep`, which runs the decoded instruction. -/
theorem stepRunsTheDecodedInstruction : Obligations.StepRunsTheDecodedInstruction := by
  intro s left i hc hn hh he hpc hd
  refine ⟨?_, fun t => ⟨fun hp => if_pos hp, fun hp => ?_⟩⟩
  · calc step s
        = coreMove { s with plan := s.plan.tail } := step_coresTurn hc
      _ = instrStep left { s with plan := s.plan.tail } := coreMove_stepsNext hn hh
      _ = _ := instrStep_runs (stepIdle_false.2 ⟨hh, he⟩) hpc hd
  · rw [afterExec_running left hp, signalRepaint_eq]

/-- Settles O41: each of the three moves is an idle step, or a cycle that begins halted. -/
theorem haltedStepsAndCyclesDoNothing : Obligations.HaltedStepsAndCyclesDoNothing := by
  intro s hc
  refine ⟨fun hi left hp => ?_, fun hh hp => ?_, fun hh he left hn => ?_⟩
  · exact (step_coresTurn hc).trans (coreMove_inCycle_idle hp (by simpa [stepIdle] using hi))
  · exact (step_coresTurn hc).trans (coreMove_awaitFrame_halted hp hh)
  · exact (step_coresTurn hc).trans (coreMove_stepsEnded hn hh he)

end Sys2Proof.Proofs

namespace Sys2Proof.Machine

open Sys2Proof.Safety Sys2Proof.Claims

/-! ## Control flow (41_control_flow.md)

A jump writes only `pc`; a call and a return move one entry of the stack. -/

/-- An instruction that is a jump: `pc` alone changes, unless the exact target is out of range (R180). -/
theorem goesTo_of_jumpTo {i : Instr} {s : State} {t : Nat} (h : exec i s = jumpTo t s) : GoesTo i s t :=
  ⟨fun ht => ⟨s.setPc t, h.trans (commit_in id s ht), toNat_setPc s ht, rfl, fun _ => rfl⟩,
    fun ht => h.trans (commit_out id s ht)⟩

/-- An instruction that is a skip, whichever way its condition is written (R181). -/
theorem skipsIf_of_skipIf {i : Instr} {s : State} {b c : Bool} (h : exec i s = skipIf b s) (hb : b = c) :
    SkipsIf i s c :=
  goesTo_of_jumpTo (hb ▸ h)

theorem beq_eq_decide_toNat (a b : Byte) : (a == b) = decide (a.toNat = b.toNat) := by
  rw [beq_eq_decide, decide_eq_decide, BitVec.toNat_inj]

theorem bne_eq_decide_toNat (a b : Byte) : (a != b) = decide (a.toNat ≠ b.toNat) := by
  rw [bne, beq_eq_decide_toNat, decide_not]

end Sys2Proof.Machine

namespace Sys2Proof.Proofs

open Sys2Proof.Machine Sys2Proof.Safety Sys2Proof.Claims

/-- Settles O1: `execRet_entry` with an entry on the stack, `execRet_empty` without. -/
theorem returnPopsTheStack : Obligations.ReturnPopsTheStack := by
  refine ⟨decode_encode .ret, fun s h => ⟨_, execRet_entry h, rfl, ?_, rfl, fun _ => rfl⟩, fun s h => execRet_empty h⟩
  rw [State.setPc_pc, BitVec.ofNat_toNat, BitVec.setWidth_eq]
  exact Vector.getElem?_eq_getElem _

/-- Settles O3, by the two checks in their order: `execCall_full`, `execCall_out`, and `execCall_room` past both. -/
theorem callPushesTheReturnAddress : Obligations.CallPushesTheReturnAddress := by
  refine fun nnn => ⟨decode_encode (.call nnn), fun s => ⟨execCall_full nnn, execCall_out nnn, fun hsp hpc => ?_⟩⟩
  refine ⟨_, execCall_room nnn hsp hpc, by simp, rfl, fun j _ => ?_, rfl, fun _ => rfl⟩
  simp [Vector.getElem?_set, eq_comm]

/-- Settles O4: each is a skip on its comparison, which compares the bytes as numbers. -/
theorem byteSkipsCompare : Obligations.ByteSkipsCompare :=
  fun x nn => ⟨decode_encode (.seImm x nn), decode_encode (.sneImm x nn), fun _ =>
    ⟨skipsIf_of_skipIf rfl (beq_eq_decide_toNat _ _), skipsIf_of_skipIf rfl (bne_eq_decide_toNat _ _)⟩⟩

/-- Settles O5: each is a skip on its comparison; with N not 0 the word is in a class of R106. -/
theorem registerSkipsCompare : Obligations.RegisterSkipsCompare := by
  refine fun x y => ⟨decode_encode (.seReg x y), decode_encode (.sneReg x y), fun n hn => ⟨?_, ?_⟩, fun s =>
    ⟨skipsIf_of_skipIf rfl (beq_eq_decide_toNat _ _), skipsIf_of_skipIf rfl (bne_eq_decide_toNat _ _)⟩⟩
  · exact decode_of_illegalWord (op := encodeXYN 0x5 x y n) (.inr (.inl (by simpa using hn)))
  · exact decode_of_illegalWord (op := encodeXYN 0x9 x y n) (.inr (.inr (.inr (.inl (by simpa using hn)))))

/-- Settles O6: JP V0 is a jump to the exact sum. -/
theorem jumpWithOffsetAddsV0 : Obligations.JumpWithOffsetAddsV0 :=
  fun nnn => ⟨decode_encode (.jpV0 nnn), fun _ => goesTo_of_jumpTo rfl⟩

/-- Settles O51, from O3 and O1: the return reads the entry that the call has just written. -/
theorem returnUndoesCall : Obligations.ReturnUndoesCall := by
  intro nnn s hsp hpc
  obtain ⟨-, hcalls⟩ := callPushesTheReturnAddress nnn
  obtain ⟨-, -, hroom⟩ := hcalls s
  obtain ⟨t, hcall, -, htsp, hpush, ht, -⟩ := hroom hsp hpc
  obtain ⟨-, hentry, -⟩ := returnPopsTheStack
  obtain ⟨u, hret, husp, hpop, hu, -⟩ := hentry t (by omega)
  have hdepth : t.sp.val - 1 = s.sp.val := by omega
  rw [hdepth, hpush _ hsp, if_pos rfl] at hpop
  have hupc : u.pc = BitVec.ofNat 12 (s.pc.toNat + 2) := (Option.some.inj hpop).symm
  have huV : u.V = s.V := by rw [hu, ht]
  refine ⟨t, u, hcall, hret, ?_, Fin.ext (husp.trans hdepth), huV⟩
  rw [hupc, BitVec.toNat_ofNat]
  omega

/-- Settles O2: a jump, whose 12-bit target is always in range. -/
theorem jumpSetsThePc : Obligations.JumpSetsThePc :=
  fun nnn => ⟨decode_encode (.jp nnn), fun s =>
    ⟨_, commit_in id s (Nat.le_of_lt_succ nnn.isLt), by simp, rfl, fun _ => rfl⟩⟩

end Sys2Proof.Proofs

namespace Sys2Proof.Machine

open Sys2Proof.Safety Sys2Proof.Claims

/-! ## Arithmetic (42_arithmetic.md)

Each meaning is an advance with one register write, with or without a flag after it. The statements then differ only in
the byte written and the flag, which the model computes on bit vectors and the rules on numbers. -/

/-- An instruction that is an advance: its effect with the next `pc`, unless that is out of range (R143a, R180). -/
theorem advances_of_advance {i : Instr} {f : State → State → State} {post : State → State → Prop}
    (hx : ∀ s, exec i s = advance (f s) s) (hp : ∀ s, post s ((f s s).setPc (s.pc.toNat + 2))) : Advances i post :=
  fun s => ⟨fun h => ⟨_, (hx s).trans (advance_in _ h), toNat_setPc _ h, hp s⟩,
    fun h => (hx s).trans (advance_out _ h)⟩

/-- An advance that writes one register, whichever way the byte is computed. -/
theorem writesReg_of_advance {i : Instr} {x : RegIdx} {result value : State → Byte}
    (hx : ∀ s, exec i s = advance (·.setV x (result s)) s) (hr : ∀ s, result s = value s) : WritesReg i x value :=
  advances_of_advance hx fun s => ⟨fun r => by rw [readV_setPc, readV_setV, hr], rfl, fun _ => rfl⟩

/-- An advance that writes one register and then the flag, whichever way they are computed (R32, R210e). -/
theorem writesRegAndFlag_of_advance {i : Instr} {x : RegIdx} {result value : State → Byte} {c flag : State → Bool}
    (hx : ∀ s, exec i s = advance (·.setWithFlag x (result s) (c s)) s) (hr : ∀ s, result s = value s)
    (hc : ∀ s, c s = flag s) : WritesRegAndFlag i x value flag :=
  advances_of_advance hx fun s =>
    ⟨fun r => by rw [readV_setPc, readV_setWithFlag, hr, hc, flagByte], rfl, fun _ => rfl⟩

/-! ### Bytes as numbers -/

theorem byte_add_eq_ofNat (a b : Byte) : a + b = BitVec.ofNat 8 ((a.toNat + b.toNat) % 256) :=
  BitVec.eq_of_toNat_eq (by simp)

theorem byte_sub_eq_ofNat (a b : Byte) : a - b = BitVec.ofNat 8 ((256 + a.toNat - b.toNat) % 256) := by
  have hb := b.isLt
  refine BitVec.eq_of_toNat_eq ?_
  rw [BitVec.toNat_sub, BitVec.toNat_ofNat]
  omega

theorem byte_or_eq_ofNat (a b : Byte) : a ||| b = BitVec.ofNat 8 (a.toNat ||| b.toNat) := by
  rw [← BitVec.toNat_or, BitVec.ofNat_toNat, BitVec.setWidth_eq]

theorem byte_and_eq_ofNat (a b : Byte) : a &&& b = BitVec.ofNat 8 (a.toNat &&& b.toNat) := by
  rw [← BitVec.toNat_and, BitVec.ofNat_toNat, BitVec.setWidth_eq]

theorem byte_xor_eq_ofNat (a b : Byte) : a ^^^ b = BitVec.ofNat 8 (a.toNat ^^^ b.toNat) := by
  rw [← BitVec.toNat_xor, BitVec.ofNat_toNat, BitVec.setWidth_eq]

/-- The shift input as a number, under either setting of the quirk (R220). -/
theorem shiftIn_eq_toNat (s : State) (x y : RegIdx) : shiftIn s x y = (shiftInput s x y).toNat :=
  (apply_ite BitVec.toNat _ _ _).symm

theorem byte_shiftRight_one_eq_ofNat (a : Byte) : a >>> 1 = BitVec.ofNat 8 (a.toNat / 2) := by
  refine BitVec.eq_of_toNat_eq ?_
  rw [BitVec.toNat_ushiftRight, Nat.shiftRight_one, BitVec.toNat_ofNat]
  omega

theorem byte_shiftLeft_one_eq_ofNat (a : Byte) : a <<< 1 = BitVec.ofNat 8 (2 * a.toNat % 256) := by
  refine BitVec.eq_of_toNat_eq ?_
  rw [BitVec.toNat_shiftLeft, Nat.shiftLeft_eq, BitVec.toNat_ofNat]
  omega

theorem bitOutRight_eq_decide (a : Byte) : bitOutRight a = decide (a.toNat % 2 = 1) := by
  rw [bitOutRight, ← BitVec.testBit_toNat, Nat.testBit_zero]

theorem bitOutLeft_eq_decide (a : Byte) : bitOutLeft a = decide (a.toNat ≥ 128) :=
  BitVec.msb_eq_decide a

end Sys2Proof.Machine

namespace Sys2Proof.Proofs

open Sys2Proof.Machine Sys2Proof.Safety Sys2Proof.Claims

/-- Settles O8: one register write of the sum mod 256. -/
theorem addImmediateWrapsWithoutFlag : Obligations.AddImmediateWrapsWithoutFlag :=
  fun x nn => ⟨decode_encode (.addImm x nn), writesReg_of_advance (fun _ => rfl) fun _ => byte_add_eq_ofNat _ _⟩

/-- Settles O10: one register write each, of the operation on the numbers' bits. -/
theorem logicIsBitwiseWithoutFlag : Obligations.LogicIsBitwiseWithoutFlag :=
  fun x y => ⟨decode_encode (.orReg x y), decode_encode (.andReg x y), decode_encode (.xorReg x y),
    writesReg_of_advance (fun _ => rfl) fun _ => byte_or_eq_ofNat _ _,
    writesReg_of_advance (fun _ => rfl) fun _ => byte_and_eq_ofNat _ _,
    writesReg_of_advance (fun _ => rfl) fun _ => byte_xor_eq_ofNat _ _⟩

/-- Settles O11: the flag is the model's carry, word for word. -/
theorem addSetsCarry : Obligations.AddSetsCarry :=
  fun x y => ⟨decode_encode (.addReg x y),
    writesRegAndFlag_of_advance (fun _ => rfl) (fun _ => byte_add_eq_ofNat _ _) fun _ => rfl⟩

/-- Settles O12: the flag is the model's no-borrow, word for word. -/
theorem subtractSetsNoBorrow : Obligations.SubtractSetsNoBorrow :=
  fun x y => ⟨decode_encode (.subReg x y),
    writesRegAndFlag_of_advance (fun _ => rfl) (fun _ => byte_sub_eq_ofNat _ _) fun _ => rfl⟩

/-- Settles O13: as O12 with the operands exchanged. -/
theorem reverseSubtractSetsNoBorrow : Obligations.ReverseSubtractSetsNoBorrow :=
  fun x y => ⟨decode_encode (.subn x y),
    writesRegAndFlag_of_advance (fun _ => rfl) (fun _ => byte_sub_eq_ofNat _ _) fun _ => rfl⟩

/-- Settles O14: half of the shift input, and its bit 0, on the input as a number. -/
theorem shiftRightSetsTheBitOut : Obligations.ShiftRightSetsTheBitOut := by
  refine fun x y => ⟨decode_encode (.shr x y), writesRegAndFlag_of_advance (fun _ => rfl) (fun s => ?_) fun s => ?_⟩
  · rw [shiftIn_eq_toNat, byte_shiftRight_one_eq_ofNat]
  · rw [shiftIn_eq_toNat, bitOutRight_eq_decide]

/-- Settles O15: twice the shift input, and its bit 7, on the input as a number. -/
theorem shiftLeftSetsTheBitOut : Obligations.ShiftLeftSetsTheBitOut := by
  refine fun x y => ⟨decode_encode (.shl x y), writesRegAndFlag_of_advance (fun _ => rfl) (fun s => ?_) fun s => ?_⟩
  · rw [shiftIn_eq_toNat, byte_shiftLeft_one_eq_ofNat]
  · rw [shiftIn_eq_toNat, bitOutLeft_eq_decide]

/-- Settles O16: an advance whose effect draws from the generator once, whatever the generator is. -/
theorem randomMasksTheGeneratorsByte : Obligations.RandomMasksTheGeneratorsByte :=
  fun x nn => ⟨decode_encode (.rnd x nn),
    advances_of_advance (f := fun _ s => effect s (.rnd x nn)) (fun _ => rfl) fun s =>
      ⟨fun r => by rw [effect, readV_setPc, readV_setV, readV_setSeed], rfl, rfl, fun _ => rfl⟩⟩

/-- Settles O7: one register write of the instruction's own byte. -/
theorem loadImmediateWritesTheByte : Obligations.LoadImmediateWritesTheByte :=
  fun x nn => ⟨decode_encode (.ldImm x nn), writesReg_of_advance (fun _ => rfl) fun _ => rfl⟩

/-- Settles O9: one register write of the other register's byte. -/
theorem copyRegister : Obligations.CopyRegister :=
  fun x y => ⟨decode_encode (.ldReg x y), writesReg_of_advance (fun _ => rfl) fun _ => rfl⟩

end Sys2Proof.Proofs

namespace Sys2Proof.Machine

open Sys2Proof.Safety Sys2Proof.Claims

/-! ## Memory instructions (43_memory_ops.md)

FX33, FX55 and FX65 check their highest address first (`execLdB_out`, `execStore_out`, `execLoad_out`); past that check
they are advances, as ANNN and FX1E are from the start. -/

/-- An advance that writes `I` alone, whichever way the address is computed. -/
theorem writesIndex_of_advance {i : Instr} {address : State → Addr} {value : State → Nat}
    (hx : ∀ s, exec i s = advance (·.setI (address s)) s) (ha : ∀ s, (address s).toNat = value s) :
    WritesIndex i value :=
  advances_of_advance hx fun s => ⟨ha s, rfl, fun _ => rfl⟩

theorem toNat_addr_add_byte (a : Addr) (b : Byte) : (a + b.setWidth 12).toNat = (a.toNat + b.toNat) % 4096 := by
  rw [BitVec.toNat_add, BitVec.toNat_setWidth_of_le (by decide)]

/-- Each decimal digit fits a byte, so none is cut (R252). -/
theorem toNat_decimalDigits (b : Byte) :
    (decimalDigits b).map BitVec.toNat = [b.toNat / 100, b.toNat / 10 % 10, b.toNat % 10] := by
  have hb := b.isLt
  have hcut {n : Nat} (hn : n < 256) : (BitVec.ofNat 8 n).toNat = n := Nat.mod_eq_of_lt hn
  simp only [decimalDigits, List.map_cons, List.map_nil]
  rw [hcut (by omega), hcut (by omega), hcut (by omega)]

/-- The three digits stored at `a` read back as numbers, each at its own address (R252). -/
theorem toNat_byteAt_setMem_decimalDigits {s : State} {a : Nat} (b : Byte) (ha : a + 3 ≤ 4096)
    (h : Memory.wf s.params.font s.mem = true) {k : Nat} (hk : k < 3) :
    (byteAt (s.setMem (storedAt s a (decimalDigits b))) (a + k)).toNat =
      [b.toNat / 100, b.toNat / 10 % 10, b.toNat % 10][k] := by
  calc
    _ = (decimalDigits b)[k].toNat := congrArg BitVec.toNat (byteAt_setMem (decimalDigits b) ha h hk)
    _ = ((decimalDigits b).map BitVec.toNat)[k] := (List.getElem_map ..).symm
    _ = _ := List.getElem_of_eq (toNat_decimalDigits b) hk

end Sys2Proof.Machine

namespace Sys2Proof.Proofs

open Sys2Proof.Machine Sys2Proof.Safety Sys2Proof.Claims

/-- Settles O18: one write of `I`, whose 12 bits are the sum mod 4096. -/
theorem addToIndexWrapsWithoutFlag : Obligations.AddToIndexWrapsWithoutFlag :=
  fun x => ⟨decode_encode (.addI x), writesIndex_of_advance (fun _ => rfl) fun _ => toNat_addr_add_byte _ _⟩

/-- Settles O19: past the address check, the store of the three digits reads back, and reads elsewhere do not see it. -/
theorem decimalStoreWritesThreeDigits : Obligations.DecimalStoreWritesThreeDigits := by
  refine fun x => ⟨decode_encode (.ldB x), fun s hm => ⟨execLdB_out x,
    fun hI hp => (execLdB_in x hI).trans (advance_out _ hp),
    fun hI hp => ⟨_, (execLdB_in x hI).trans (advance_in _ hp), ?_⟩⟩⟩
  have hfit : s.I.toNat + 3 ≤ 4096 := by omega
  have hdigit {k : Nat} (hk : k < 3) := toNat_byteAt_setMem_decimalDigits (readV s x) hfit hm hk
  refine ⟨hdigit (k := 0) (by decide), hdigit (k := 1) (by decide), hdigit (k := 2) (by decide),
    fun a ha => ?_, toNat_setPc _ hp, rfl⟩
  exact byteAt_setMem_of_not_mem (decimalDigits (readV s x)) hfit hm ha

/-- Settles O20: past the address check, the store of V0 through V[X] reads back, and reads elsewhere do not see it. -/
theorem blockStoreWritesTheRegisters : Obligations.BlockStoreWritesTheRegisters := by
  refine fun x => ⟨decode_encode (.store x), fun s hm => ⟨execStore_out x,
    fun hI hp => (execStore_in x hI).trans (advance_out _ hp),
    fun hI hp => ⟨_, (execStore_in x hI).trans (advance_in _ hp), ?_⟩⟩⟩
  have hl := length_blockRegs s x
  have hfit : s.I.toNat + (blockRegs s x).length ≤ 4096 := by omega
  refine ⟨fun r hr => ?_, fun a ha => ?_, toNat_indexAfterBlock s x, toNat_setPc _ hp, rfl⟩
  · have hk : r.toNat < (blockRegs s x).length := by omega
    exact (byteAt_setMem _ hfit hm hk).trans (getElem_blockRegs s x hk r.isLt)
  · exact byteAt_setMem_of_not_mem _ hfit hm (by omega)

/-- Settles O21: past the address check, the registers are `loadedRegs` and memory is not written. -/
theorem blockLoadReadsTheRegisters : Obligations.BlockLoadReadsTheRegisters :=
  fun x => ⟨decode_encode (.load x), fun s => ⟨execLoad_out x,
    fun hI hp => (execLoad_in x hI).trans (advance_out _ hp),
    fun hI hp => ⟨_, (execLoad_in x hI).trans (advance_in _ hp), readV_loadedRegs s x _, toNat_indexAfterBlock s x,
      toNat_setPc _ hp, rfl, fun _ => rfl⟩⟩⟩

/-- Settles O17: one write of `I`, of the instruction's own address. -/
theorem loadIndexWritesTheAddress : Obligations.LoadIndexWritesTheAddress :=
  fun nnn => ⟨decode_encode (.ldI nnn), writesIndex_of_advance (fun _ => rfl) fun _ => rfl⟩

end Sys2Proof.Proofs

namespace Sys2Proof.Machine

open Sys2Proof.Safety Sys2Proof.Claims

/-! ## Display (44_display.md)

A draw is a list of toggles, which `toggleAll_spec` describes by how often each pixel is named: `hits`, by
`count_placed_sprite`. -/

/-- Where raw coordinates land, under each edge policy (R280, R285). -/
theorem place_eq_some_iff {p : Config.Params} {x y : Nat} {q : Point} :
    place p x y = some q ↔ p.drawEdge = .wrap ∧ q = (x % p.displayW, y % p.displayH) ∨
      p.drawEdge = .clip ∧ x < p.displayW ∧ y < p.displayH ∧ q = (x, y) := by
  unfold place
  cases p.drawEdge with
  | wrap => simp [eq_comm]
  | clip => simp [and_assoc, eq_comm]

theorem place_eq_none_of_clip {p : Config.Params} {x y : Nat} (hc : p.drawEdge = .clip)
    (h : p.displayW ≤ x ∨ p.displayH ≤ y) : place p x y = none := by
  unfold place
  rw [hc]
  exact if_neg (by omega)

/-- A toggle of a pixel on the display inverts it and no other (R280). -/
theorem pixel_toggle_some {p : Config.Params} {fb : FrameBuffer} {x y : Nat} {q : Point} (hd : DisplaySound p fb)
    (h : place p x y = some q) (r : Point) :
    pixel (toggle p fb x y).1 r = if r = q then !pixel fb r else pixel fb r := by
  obtain ⟨hx, hy⟩ := place_on hd h
  rw [toggle_some fb h, pixel_flipPixel hd.shape hx hy]
  by_cases hr : r = q
  · rw [hr]
  · rw [if_neg hr, if_neg hr]

/-! ### What a draw leaves -/

/-- The draw takes a collision: a pixel it toggles was set before, or is toggled twice (R287). -/
def Collides (s : State) (x y : RegIdx) (n : Nibble) : Prop :=
  ∃ p, 0 < hits s x y n p ∧ pixel s.fb p = true ∨ 2 ≤ hits s x y n p

/-- The draw names a pixel as often as a set bit of its sprite lands on it. -/
theorem count_placed_draw (s : State) (x y : RegIdx) (n : Nibble) (p : Point) :
    (placed s.params (spritePixels s (dataAddr s 0) n.toNat (readV s x).toNat (readV s y).toNat)).count p =
      hits s x y n p :=
  count_placed_sprite ..

theorem pixel_drawSprite {s : State} (hd : DisplaySound s.params s.fb) (x y : RegIdx) (n : Nibble) (p : Point) :
    pixel (drawSprite x y n s).fb p = if hits s x y n p % 2 = 1 then !pixel s.fb p else pixel s.fb p := by
  refine ((toggleAll_spec _ s.fb hd).1 p).trans ?_
  rw [count_placed_draw]
  by_cases h : hits s x y n p % 2 = 1
  · rw [if_pos h, h, beq_self_eq_true, Bool.xor_true]
  · rw [if_neg h, beq_false_of_ne h, Bool.xor_false]

/-- VF after a draw is its collision (R287). -/
theorem readV_drawSprite_vf {s : State} (hd : DisplaySound s.params s.fb) (x y : RegIdx) (n : Nibble) :
    ∃ c, readV (drawSprite x y n s) vf = flagByte c ∧ (c = true ↔ Collides s x y n) := by
  refine ⟨_, (readV_setFlag ..).trans (if_pos rfl), (toggleAll_spec _ s.fb hd).2.trans ?_⟩
  simp only [count_placed_draw, Collides]

theorem readV_drawSprite_vf_of_collides {s : State} (hd : DisplaySound s.params s.fb) {x y : RegIdx} {n : Nibble}
    (h : Collides s x y n) : readV (drawSprite x y n s) vf = 1 := by
  obtain ⟨c, hv, hc⟩ := readV_drawSprite_vf hd x y n
  rw [hv, hc.2 h]; rfl

theorem readV_drawSprite_vf_of_not_collides {s : State} (hd : DisplaySound s.params s.fb) {x y : RegIdx} {n : Nibble}
    (h : ¬ Collides s x y n) : readV (drawSprite x y n s) vf = 0 := by
  obtain ⟨c, hv, hc⟩ := readV_drawSprite_vf hd x y n
  rw [hv, Bool.eq_false_iff.2 (mt hc.1 h)]; rfl

theorem readV_drawSprite_of_ne_vf (s : State) (x y : RegIdx) (n : Nibble) {r : RegIdx} (h : r ≠ vf) :
    readV (drawSprite x y n s) r = readV s r := by
  rw [drawSprite, readV_setFlag, if_neg h, readV_setDisplay]

/-- What a sprite hits depends on its bytes, its coordinates and the display's parameters alone. -/
theorem hits_congr {s t : State} {x y : RegIdx} (hp : t.params = s.params) (hI : t.I = s.I) (hm : SameMem s t)
    (hx : readV t x = readV s x) (hy : readV t y = readV s y) (n : Nibble) : hits t x y n = hits s x y n := by
  funext p
  simp only [hits, hp, hI, hm _, hx, hy]

end Sys2Proof.Machine

namespace Sys2Proof.Proofs

open Sys2Proof.Machine Sys2Proof.Safety Sys2Proof.Claims

/-- Settles O22: an advance whose effect is the clear display with the repaint signal. -/
theorem clearScreenClearsEveryPixel : Obligations.ClearScreenClearsEveryPixel :=
  ⟨decode_encode .cls, advances_of_advance (f := fun _ => State.clearScreen) (fun _ => rfl) fun s =>
    ⟨pixel_clear s.params, displayWf_clear s.params, rfl, rfl, fun _ => rfl⟩⟩

/-- Settles O23, by where the edge policy places the coordinates: on a pixel, or nowhere. -/
theorem toggleInvertsOnePixel : Obligations.ToggleInvertsOnePixel := by
  refine fun s x y hd => ⟨fun q hq => ?_, fun hc hout => toggle_none s.fb (place_eq_none_of_clip hc hout),
    displayWf_toggle x y hd.shape⟩
  have hplace : place s.params x y = some q := place_eq_some_iff.2 hq
  exact ⟨congrArg Prod.snd (toggle_some s.fb hplace), pixel_toggle_some hd hplace⟩

/-- Settles O24: past the address check, a draw is an advance, and `hits` counts its toggles of each pixel. -/
theorem drawTogglesTheSprite : Obligations.DrawTogglesTheSprite := by
  refine fun x y n => ⟨decode_encode (.drw x y n), fun s => ⟨execDrw_out x y,
    fun hI hp => (execDrw_in x y hI).trans (advance_out _ hp),
    fun hI hp => ⟨_, (execDrw_in x y hI).trans (advance_in _ hp), fun hd => ?_,
      fun r hr => readV_drawSprite_of_ne_vf s x y n hr, rfl, toNat_setPc _ hp, rfl, fun _ => rfl⟩⟩⟩
  refine ⟨pixel_drawSprite hd x y n, readV_drawSprite_vf_of_collides hd,
    fun hclear => readV_drawSprite_vf_of_not_collides hd ?_, displaySound_toggleAll _ hd⟩
  rintro ⟨p, ⟨hhit, hset⟩ | htwice⟩
  · exact absurd hset (by rw [(hclear p).1 hhit]; decide)
  · exact absurd htwice (Nat.not_le.2 (hclear p).2)

/-- Settles O25, from O24 twice: the second draw hits the same pixels, so every inversion is undone; on a clear
display a pixel hit once is set before the second draw, and one hit more often collides by itself. -/
theorem drawingTwiceErases : Obligations.DrawingTwiceErases := by
  intro x y n s hd hx hy hI hpc
  obtain ⟨-, hdraws⟩ := drawTogglesTheSprite x y n
  obtain ⟨-, -, hdraw⟩ := hdraws s
  obtain ⟨t, hexec, hdisplay, hregs, -, htpc, ht, hmem⟩ := hdraw (by omega) (by omega)
  have hparams : t.params = s.params := by rw [ht]
  have hindex : t.I = s.I := by rw [ht]
  obtain ⟨hpix, -, hvf, hdt⟩ := hdisplay hd
  have hhits : hits t x y n = hits s x y n := hits_congr hparams hindex hmem (hregs x hx) (hregs y hy) n
  obtain ⟨-, -, hdraw'⟩ := hdraws t
  obtain ⟨u, hexec', hdisplay', -, -, -, hu, -⟩ := hdraw' (by rw [hindex]; omega) (by omega)
  obtain ⟨hpix', hvf', -, hdu⟩ := hdisplay' hdt
  have hparams' : u.params = s.params := by rw [hu, hparams]
  refine ⟨t, u, hexec, hexec', ?_, fun hclear => ⟨fun ⟨p, hp⟩ => hvf' ⟨p, ?_⟩, fun honce => hvf fun p => ?_⟩⟩
  · refine display_ext (hparams' ▸ hdu.shape) hd.shape fun p => ?_
    rw [hpix', hhits, hpix]
    split <;> simp
  · rw [hhits, hpix, hclear]
    by_cases hodd : hits s x y n p % 2 = 1
    · exact .inl ⟨hp, if_pos hodd⟩
    · exact .inr (by omega)
  · exact ⟨fun _ => hclear p, honce p⟩

end Sys2Proof.Proofs

namespace Sys2Proof.Machine

open Sys2Proof.Claims

/-! ## Timers (45_timer.md)

`toNat_countDown` says what one decrement does to one timer. The two timers count down independently, so n decrements of
the state are n of each timer. -/

/-- `max(0, start - n)`, which `counted` writes as a subtraction of naturals (R310). -/
theorem toNat_iterate_countDown (n : Nat) (t : Byte) : (countDown^[n] t).toNat = counted n t := by
  unfold counted
  induction n with
  | zero => rfl
  | succ n ih => rw [Function.iterate_succ_apply', toNat_countDown, ih, Nat.sub_sub]

theorem iterate_decTimers (n : Nat) (s : State) :
    decTimers^[n] s = { s with DT := countDown^[n] s.DT, ST := countDown^[n] s.ST } := by
  induction n with
  | zero => rfl
  | succ n ih => simp only [Function.iterate_succ_apply', ih, decTimers]

end Sys2Proof.Machine

namespace Sys2Proof.Proofs

open Sys2Proof.Machine Sys2Proof.Safety Sys2Proof.Claims

/-- Settles O28: n decrements write the two timers alone (`iterate_decTimers`), each counted down by itself. -/
theorem timersCountDownToZero : Obligations.TimersCountDownToZero := by
  intro n s
  rw [iterate_decTimers]
  exact ⟨⟨toNat_iterate_countDown n s.DT, toNat_iterate_countDown n s.ST⟩, rfl⟩

/-- Settles O26: one register write of the delay timer. -/
theorem readDelayTimer : Obligations.ReadDelayTimer :=
  fun x => ⟨decode_encode (.ldFromDt x), writesReg_of_advance (fun _ => rfl) fun _ => rfl⟩

/-- Settles O27: each is an advance whose effect writes its own timer alone. -/
theorem setTheTimers : Obligations.SetTheTimers :=
  fun x => ⟨decode_encode (.ldDt x), decode_encode (.ldSt x),
    advances_of_advance (f := fun s => State.setDT (readV s x)) (fun _ => rfl) fun _ => ⟨rfl, rfl, fun _ => rfl⟩,
    advances_of_advance (f := fun s => State.setST (readV s x)) (fun _ => rfl) fun _ => ⟨rfl, rfl, fun _ => rfl⟩⟩

end Sys2Proof.Proofs

namespace Sys2Proof.Machine

open Sys2Proof.Safety Sys2Proof.Claims

/-! ## Input (46_input.md)

A key skip raises on an operand past 15 and is else a skip on one key's state. A key event sets one key; in a wait a
press also writes the byte of `keyWaitByte`, advances and ends the wait. -/

theorem exec_skp_high {s : State} {x : RegIdx} (h : 15 < (readV s x).toNat) :
    exec (.skp x) s = .next (raised (.keyIndexOutOfRange (readV s x)) s) := by
  simp only [exec, execSkp, keyOperand_high h, takeFatal_eq]

theorem exec_sknp_high {s : State} {x : RegIdx} (h : 15 < (readV s x).toNat) :
    exec (.sknp x) s = .next (raised (.keyIndexOutOfRange (readV s x)) s) := by
  simp only [exec, execSknp, keyOperand_high h, takeFatal_eq]

theorem exec_skp_key {s : State} {x : RegIdx} {k : Key} (h : (readV s x).toNat = k.toNat) :
    exec (.skp x) s = skipIf (keyIsDown s k) s := by
  simp only [exec, execSkp, keyOperand_of_key h]

theorem exec_sknp_key {s : State} {x : RegIdx} {k : Key} (h : (readV s x).toNat = k.toNat) :
    exec (.sknp x) s = skipIf (!keyIsDown s k) s := by
  simp only [exec, execSknp, keyOperand_of_key h]

theorem toNat_keyWaitByte_keyIndex {p : Config.Params} (k : Key) (h : p.keyWaitValue = .keyIndex) :
    (keyWaitByte p k).toNat = k.toNat := by
  simp only [keyWaitByte, h]
  exact BitVec.toNat_setWidth_of_le (by decide)

theorem keyWaitByte_placeholder {p : Config.Params} (k : Key) (h : p.keyWaitValue = .placeholder) :
    keyWaitByte p k = p.keyWaitPlaceholder := by
  simp only [keyWaitByte, h]

/-- The state that a resolved key-wait leaves (R341, log 19), as `keyDown_wait` answers it. -/
def resolved (k : Key) (x : RegIdx) (s : State) : State :=
  ((s.setKey k true).setV x (keyWaitByte s.params k)).endWait.endSteps.setPc (s.pc.toNat + 2)

theorem keyIsDown_resolved (k : Key) (x : RegIdx) (s : State) (j : Key) :
    keyIsDown (resolved k x s) j = if j = k then true else keyIsDown s j :=
  keyIsDown_setKey s k true j

theorem readV_resolved (k : Key) (x : RegIdx) (s : State) (r : RegIdx) :
    readV (resolved k x s) r = if r = x then keyWaitByte s.params k else readV s r := by
  simp [resolved]

theorem stepsEnded_resolved (k : Key) (x : RegIdx) {s : State} (h : s.stopped = false) :
    (resolved k x s).stepsEnded = s.stepsEnded := by
  simp [resolved, h]

end Sys2Proof.Machine

namespace Sys2Proof.Proofs

open Sys2Proof.Machine Sys2Proof.Safety Sys2Proof.Claims

/-- Settles O29: an operand past 15 names no key; else each is a skip on the state of the key it names. -/
theorem keySkipsReadTheKey : Obligations.KeySkipsReadTheKey :=
  fun x => ⟨decode_encode (.skp x), decode_encode (.sknp x), fun _ =>
    ⟨fun h => ⟨exec_skp_high h, exec_sknp_high h⟩,
      fun _ h => ⟨skipsIf_of_skipIf (exec_skp_key h) rfl, skipsIf_of_skipIf (exec_sknp_key h) rfl⟩⟩⟩

/-- Settles O31: outside a wait the press is one key write (`keyDown_noWait`); in one it answers `resolved`, whose
target register holds the byte of the setting. -/
theorem keyDownResolvesTheWait : Obligations.KeyDownResolvesTheWait := by
  refine fun k s => ⟨fun ha => ⟨_, keyDown_noWait k ha, keyIsDown_setKey s k true, rfl⟩, fun x ha ht hp => ?_⟩
  have hx : readV (resolved k x s) x = keyWaitByte s.params k := by rw [readV_resolved, if_pos rfl]
  refine ⟨resolved k x s, keyDown_wait k ha ht hp, keyIsDown_resolved k x s, fun hv => ?_, fun hv => ?_,
    fun r hr => ?_, toNat_setPc _ hp, rfl, stepsEnded_resolved k x⟩
  · rw [hx, toNat_keyWaitByte_keyIndex k hv]
  · rw [hx, keyWaitByte_placeholder k hv]
  · rw [readV_resolved, if_neg hr]

/-- Settles O30: the advance is checked when the wait begins, and past the check `beginWait` is the whole effect. -/
theorem keyWaitBegins : Obligations.KeyWaitBegins :=
  fun x => ⟨decode_encode (.ldKey x), fun _ => ⟨execLdKey_out x, fun h =>
    ⟨_, execLdKey_in x h, rfl, rfl, rfl, rfl, rfl, fun _ => rfl⟩⟩⟩

/-- Settles O32: a release is one key write, in a wait as outside one. -/
theorem keyUpReleasesTheKey : Obligations.KeyUpReleasesTheKey :=
  fun s => ⟨fun k => ⟨keyIsDown_setKey s k false, rfl⟩, rfl, rfl⟩

end Sys2Proof.Proofs

namespace Sys2Proof.Machine

/-! ## Font (47_sprite_font.md) -/

/-- The largest glyph address, 5 * 255 = 1275, fits 12 bits, so none is cut (R361). -/
theorem toNat_glyphAddr (b : Byte) : (glyphAddr b).toNat = 5 * b.toNat := by
  have hb := b.isLt
  have hfit : 5 * b.toNat < 2 ^ 12 := by omega
  exact Nat.mod_eq_of_lt hfit

end Sys2Proof.Machine

namespace Sys2Proof.Proofs

open Sys2Proof.Machine Sys2Proof.Safety Sys2Proof.Claims

/-- Settles O33: one write of `I`, whose 12 bits hold every glyph address whole. -/
theorem fontAddressIsFiveTimesTheDigit : Obligations.FontAddressIsFiveTimesTheDigit :=
  fun x => ⟨decode_encode (.ldF x), writesIndex_of_advance (fun _ => rfl) fun _ => toNat_glyphAddr _⟩

end Sys2Proof.Proofs

namespace Sys2Proof.Machine

open Sys2Proof.Safety Sys2Proof.Claims

/-! ## Exceptions (60_exceptions.md)

### Errors of the fetch and of the decode (R76, R106, R373) -/

/-- An odd pc raises whatever the bytes are: the fetch's check comes before the decoder's (R373). -/
theorem instrStep_odd {s : State} (left : Nat) (hi : stepIdle s = false) (ho : s.pc.toNat % 2 = 1) :
    instrStep left s = .next (raised (.misalignedFetch s.pc) s) := by
  simp only [instrStep, hi, Bool.false_eq_true, if_false, fetch_odd ho, takeFatal_eq]

theorem instrStep_illegal {s : State} (left : Nat) (hi : stepIdle s = false) (he : s.pc.toNat % 2 = 0) {op : Word}
    (hop : op = byteAt s s.pc.toNat ++ byteAt s (s.pc.toNat + 1)) (hw : legalWord op = false) :
    instrStep left s = .next (raised (.decodeError op) s) := by
  have hd : decode op = .error (.unrecognized op) := (legalWord_eq_false_iff op).1 hw
  simp only [instrStep, hi, Bool.false_eq_true, if_false, fetch_even he, ← hop, hd, takeFatal_eq]

/-! ### `load_program` (R383, R403) -/

theorem loadProgram_fits {bytes : List Byte} (s : State) (h : bytes.length ≤ 3584) :
    loadProgram bytes s = .ok (s.setMem (storedAt s 0x200 bytes)) :=
  if_neg (Nat.not_lt.2 h)

theorem loadProgram_tooLong {bytes : List Byte} (s : State) (h : 3584 < bytes.length) :
    loadProgram bytes s = .error (.loadCapacityError bytes.length) :=
  if_pos h

theorem hostReply_loadProgram_ok {s t : State} {bytes : List Byte} (h : loadProgram bytes s = .ok t) :
    hostReply (.loadProgram bytes) s = .done := by
  simp only [hostReply, h]

theorem hostReply_loadProgram_error {s : State} {bytes : List Byte} {e : FatalError}
    (h : loadProgram bytes s = .error e) : hostReply (.loadProgram bytes) s = .failed e := by
  simp only [hostReply, h]

/-! ### After the loop has exited (R376, R378) -/

theorem coreMove_exited {s : State} (h : s.phase = .exited) : coreMove s = .next s := by
  simp only [coreMove, h]

theorem waitsForHost_exited {s : State} (h : s.phase = .exited) : waitsForHost s = false := by
  simp [waitsForHost, h]

theorem step_exited_of_coresTurn {s : State} (hp : s.phase = .exited) (hc : CoresTurn s) :
    step s = .next { s with plan := s.plan.tail } :=
  (step_coresTurn hc).trans (coreMove_exited hp)

/-- With no host call to come, an exited machine stands still (R376). -/
theorem step_exited_of_plan_nil {s : State} (hp : s.phase = .exited) (hn : s.plan = []) : step s = .next s := by
  have hc : CoresTurn s := .inr ⟨hn, by simp [waitsForHost_exited hp]⟩
  have hs : { s with plan := s.plan.tail } = s := by rw [hn, List.tail_nil, ← hn]
  rw [step_exited_of_coresTurn hp hc, hs]

/-- The whole of what a host call can write once `run` has been called (R378). -/
theorem HostCalls.frame {s t : State} (h : HostCalls s t) (hp : s.phase ≠ .constructed) :
    t = { s with V := t.V, pc := t.pc, key := t.key, halted := t.halted, awaitingKey := t.awaitingKey,
                 awaitingKeyTarget := t.awaitingKeyTarget, stopped := t.stopped, stepsEnded := t.stepsEnded } := by
  cases h with
  | loads _ hc | starts hc => exact absurd hc hp
  | same | stops | setsKey | resolves => rfl

/-- Only a host call changes more of an exited machine than its plan. -/
theorem step_exited_frame {s t : State} (hp : s.phase = .exited) (h : step s = .next t) :
    t = { s with V := t.V, pc := t.pc, key := t.key, halted := t.halted, awaitingKey := t.awaitingKey,
                 awaitingKeyTarget := t.awaitingKeyTarget, stopped := t.stopped, stepsEnded := t.stepsEnded,
                 plan := t.plan } := by
  rcases step_cases h with ⟨-, rfl⟩ | ⟨-, rfl⟩ | ⟨c, -, hc⟩ | ⟨hc, -⟩
  · rfl
  · rfl
  · have hf := (hostCall_cases hc).frame (by simp [hp])
    rw [hf]
  · rw [step_exited_of_coresTurn hp hc] at h
    cases h
    rfl

/-! ### After a wait of the stopped machine has ended (R339; log 19) -/

/-- A key press in a wait of the stopped machine ends the wait, and the steps with it (R339). -/
theorem keyDown_ends_steps {s : State} (k : Key) (h : Inv s) (ha : s.awaitingKey = true) (hs : s.stopped = true) :
    ∃ t, keyDown (some k) s = .next t ∧ t.halted = false ∧ t.awaitingKey = false ∧ t.stepsEnded = true := by
  obtain ⟨x, hx⟩ := Option.isSome_iff_exists.1 (h.target_iff.trans ha)
  exact ⟨resolved k x s, keyDown_wait k ha hx (h.wait_pc ha), rfl, rfl, by simp [resolved, hs]⟩

/-- Without a wait to resolve, a host call after `run` writes the keys or the stop flag. -/
theorem HostCalls.frame_of_noWait {s t : State} (h : HostCalls s t) (hp : s.phase ≠ .constructed)
    (ha : s.awaitingKey = false) : t = { s with key := t.key, stopped := t.stopped } := by
  cases h with
  | loads _ hc | starts hc => exact absurd hc hp
  | resolves k x hw => exact absurd (ha.symm.trans hw) nofun
  | same | stops | setsKey => rfl

/-- Where every step is idle, the core's move writes the phase, and the timers at a cycle's end. -/
theorem CoreMoves.frame_of_idle {s t : State} (h : CoreMoves s t) (hi : stepIdle s = true) :
    t = { s with DT := t.DT, ST := t.ST, phase := t.phase } := by
  cases h with
  | raises left e hn hf => exact absurd (hi.symm.trans hf) nofun
  | runs left i u hn hf => exact absurd (hi.symm.trans hf) nofun
  | ends => exact endCycle_frame s
  | stays | leaves | checks | skips | idles | noSteps => rfl

/-- Once the steps have ended, no turn writes more than the timers, the keys and the scheduler's fields. -/
theorem step_stepsEnded_frame {s t : State} (hi : Inv s) (he : s.stepsEnded = true) (h : step s = .next t) :
    t = { s with DT := t.DT, ST := t.ST, phase := t.phase, key := t.key, stopped := t.stopped, plan := t.plan } := by
  obtain ⟨-, ha, hp⟩ := hi.steps_ended he
  rcases step_cases h with ⟨-, rfl⟩ | ⟨-, rfl⟩ | ⟨c, -, hc⟩ | ⟨-, hm⟩
  · rfl
  · rfl
  · have hf := (hostCall_cases hc).frame_of_noWait hp ha
    rw [hf]
  · have hf := hm.frame_of_idle (by simp [stepIdle, he])
    rw [hf]

end Sys2Proof.Machine

namespace Sys2Proof.Proofs

open Sys2Proof.Machine Sys2Proof.Safety Sys2Proof.Claims

/-- Settles O40: the core's turn gives `coreMove`, which is `instrStep`, whose fetch or decode fails. -/
theorem stepRaisesFetchAndDecodeErrors : Obligations.StepRaisesFetchAndDecodeErrors := by
  intro s left hc hn hh he
  have hi : stepIdle { s with plan := s.plan.tail } = false := stepIdle_false.2 ⟨hh, he⟩
  have hs : step s = instrStep left { s with plan := s.plan.tail } :=
    (step_coresTurn hc).trans (coreMove_stepsNext hn hh)
  exact ⟨fun ho => hs.trans (instrStep_odd left hi ho),
    fun hpc _ hop hw => hs.trans (instrStep_illegal left hi hpc hop hw)⟩

/-- Settles O45: each clause is the frame of a turn in its kind of state, with what `Inv` says of the next state. -/
theorem exitedIsFinal : Obligations.ExitedIsFinal := by
  refine ⟨fun s t hi hp h => ?_, fun k _ => keyDown_ends_steps k, fun s t hi he h => ?_⟩
  · have hf := step_exited_frame hp h
    have hpt : t.phase = .exited := (congrArg State.phase hf).trans hp
    have hst : t.stopped = true := (hi.step h).exited_stopped hpt
    have hn (hpl : s.plan = []) : t = s := by
      rw [step_exited_of_plan_nil hp hpl] at h
      cases h
      rfl
    refine ⟨hpt, hst, ?_, ?_, ?_, ?_, ?_, ?_, ?_, ?_, ?_, hn⟩ <;> rw [hf]
  · have hf := step_stepsEnded_frame hi he h
    have het : t.stepsEnded = true := (congrArg State.stepsEnded hf).trans he
    obtain ⟨hst, hat, -⟩ := (hi.step h).steps_ended het
    refine ⟨het, hst, ?_, hat, ?_, ?_, ?_, ?_, ?_, ?_, ?_, ?_, ?_, ?_⟩ <;> rw [hf]

/-- Settles O46: a program that fits is stored from 0x200 to 0xFFF at most, and reads elsewhere do not see it. -/
theorem loadProgramImplantsTheBytes : Obligations.LoadProgramImplantsTheBytes := by
  refine fun bytes s hm => ⟨fun h => ?_, fun h => ?_⟩
  · have hl := loadProgram_fits s h
    have hb : 0x200 + bytes.length ≤ 4096 := by omega
    exact ⟨_, hl, fun _ hk => byteAt_setMem bytes hb hm hk, fun _ => byteAt_setMem_of_not_mem bytes hb hm, rfl,
      hostReply_loadProgram_ok hl, fun hp => hostCall_loadProgram_ok hp hl⟩
  · have hl := loadProgram_tooLong s h
    exact ⟨hl, hostReply_loadProgram_error hl, fun hp => hostCall_loadProgram_error hp hl⟩

/-- Settles O47, by `exec_eq`: an instruction answers the error of `errorOf`, or its completion, which keeps `Kept`. -/
theorem instructionsRaiseTheirErrors : Obligations.InstructionsRaiseTheirErrors := by
  refine fun i s => ⟨fun e he => ?_, fun he => ⟨completed s i, ?_, ?_⟩⟩
  · rw [exec_eq, he]; rfl
  · rw [exec_eq, he]; rfl
  · have hk := completed_kept s i
    exact ⟨hk.fault, hk.stopped, hk.phase⟩

/-- Settles O59: a recorded error means an exited loop, and with an empty plan that is a fixed point of the step. -/
theorem fatalErrorEndsTheRun : Obligations.FatalErrorEndsTheRun :=
  fun n _ hi hn hf => run_of_step_self (step_exited_of_plan_nil (hi.fault_exited hf) hn) n

end Sys2Proof.Proofs
